-- ==== Sys2Proof/Word.lean ====
section
/-! DEFINITION. The widths of the block's data: operation words of 16 bits (rule R62) and bytes (rule R10). -/

namespace Sys2Proof

/-- An operation word: `op` in bits 15:12, `arg` in bits 11:0 (rule R62). -/
abbrev Word := BitVec 16

/-- An unsigned 8-bit value, bit 7 its most significant bit (rule R10). -/
abbrev Byte := BitVec 8

end Sys2Proof
end

