-- ==== Sys2Proof/Machine/Ports.lean ====
section
/-! DEFINITION. The vocabulary of the block's three ports: levels, answers, failure kinds, port events, and the moves the
environment makes (rules R34 to R42, R98, R108). -/

namespace Sys2Proof.Machine

/-- A line level (rule R12). -/
inductive Level where
  | high
  | low
deriving DecidableEq, Repr, Inhabited

/-- The cause a line error carries: a value of the line implementation's own type, which the block copies and never inspects
(rules R7 and R36, decision D18). DESIGN CHOICE, safe: a tag that is any natural number (notes/assumptions/4.md). -/
structure LineCause where
  tag : Nat
deriving DecidableEq, Repr, Inhabited

/-- What `LineRead()` returns: `High`, `Low` or `Err(c)` (rule R36). -/
inductive LineAnswer where
  | level (l : Level)
  | err (c : LineCause)
deriving DecidableEq, Repr, Inhabited

/-- What `LineDriveHigh()` returns: `Ok` or `Err(c)` (rule R37). -/
inductive DriveAnswer where
  | ok
  | err (c : LineCause)
deriving DecidableEq, Repr, Inhabited

/-- The three failure kinds (rule R108); the cause is carried by a line error only. -/
inductive FailKind where
  | lineError (c : LineCause)
  | timeout
  | checksumMismatch
deriving DecidableEq, Repr

/-- The four payload bytes, in the order read (rules R24 and R43). -/
structure Payload where
  b0 : Byte
  b1 : Byte
  b2 : Byte
  b3 : Byte
deriving DecidableEq, Repr

/-- One event of the trace (rule R40). -/
inductive Event where
  /-- `Accept`: a `READ_FRAME` accepted on the host port. -/
  | accept
  /-- `Drive(l) -> r`: one request to drive the line. The block drives it high only (rule R38). -/
  | drive (l : Level) (r : DriveAnswer)
  /-- `Read -> r`: one `LineRead()`. -/
  | read (r : LineAnswer)
  /-- `Delay(n)`: the issue of one delay of `n` time units. -/
  | delay (n : Nat)
  /-- `DelayDone`: its completion by the time source. -/
  | delayDone
  /-- `Result(s, c, d)`: the result registers written. -/
  | result (status : BitVec 2) (cause : Option LineCause) (data : Payload)
  /-- `Abort`: an `ABORT` taken. -/
  | abort
deriving DecidableEq, Repr

/-- Who moves next (rule R98), with the two moves the spec gives the surroundings of the line. -/
inductive Move where
  /-- The block's step. -/
  | block
  /-- The time source's step. -/
  | timeSource
  /-- The host writes a command word to the host port (rule R68). -/
  | host (w : Word)
  /-- Another agent starts or stops using the block's line (rule R133). -/
  | lineUser (on : Bool)
deriving DecidableEq, Repr, Inhabited

/-- One turn of the hardware: the reset input, and the move that is made when reset is not asserted (rules R117 and R126). -/
structure Turn where
  reset : Bool
  move : Move
deriving DecidableEq, Repr, Inhabited

/-- What one step takes from outside: a turn of the hardware, or an operation word run on its own in the model's harness mode
(rule R131). -/
inductive Input where
  | turn (t : Turn)
  | harness (w : Word)
deriving DecidableEq, Repr

end Sys2Proof.Machine
end

