-- ==== Sys2Proof/Config.lean ====
section
/-! DEFINITION. The protocol constants (rules R7 and R8), the build-time parameters, and the free values: what the environment
answers, which the spec leaves to draws (93_implementation_defined.md I1, I2, I16). -/

namespace Sys2Proof.Config

open Sys2Proof.Machine

/-- `POLL_DELAY`: time units inserted after an unsuccessful check (rule R7). -/
def pollDelay : Nat := 1

/-- `START_DELAY`: time units after the start drive (rule R7). -/
def startDelay : Nat := 48

/-- `SAMPLE_DELAY`: time units from the detected rise to the sample (rule R7). -/
def sampleDelay : Nat := 35

/-- `DATA_BYTES`: payload bytes per frame (rule R7). -/
def dataBytes : Nat := 4

/-- `FRAME_BYTES`: bytes per frame (rule R7). -/
def frameBytes : Nat := 5

/-- `BITS_PER_BYTE` (rule R7). -/
def bitsPerByte : Nat := 8

/-- `WAITS_PER_READ`: polling waits in a complete read, 82 (rule R7). -/
def waitsPerRead : Nat := 2 + 2 * bitsPerByte * frameBytes

/-- `TIME_UNIT` in microseconds (rule R7, decision D2). No rule depends on it. -/
def timeUnitMicroseconds : Nat := 1

/-- The two parameters a model may vary (rules R7 and R8, decisions D3 and D24). -/
structure Params where
  /-- `TIMEOUT_BUDGET`: most checks of one wait. -/
  budget : Nat
  /-- `POLL_DELAY_AFTER_LAST_CHECK`: a failed wait issues the delay after its last check too. -/
  delayAfterLast : Bool
deriving DecidableEq, Repr

/-- This hardware: 100 and true (rule R7). -/
def hw : Params := { budget := 100, delayAfterLast := true }

/-- What a varied budget keeps to: at least 1 (rule R8), and a count that `POLL_CNT` can hold in its 7 bits (rule R22). -/
def Params.wf (P : Params) : Bool := 1 ≤ P.budget && P.budget ≤ 127

/-- FREE VALUE: the `n`-th answer of the line once `State.line` is used up, any of `High`, `Low`, `Err(c)` (rule R36, I1;
notes/assumptions/1.md). -/
opaque freeLine : Nat → LineAnswer

/-- FREE VALUE: the `n`-th answer to a drive once `State.drive` is used up (rule R37, I2; notes/assumptions/2.md). -/
opaque freeDrive : Nat → DriveAnswer

/-- FREE VALUE: the `n`-th turn once `State.inputs` is used up: any agent may move, and reset may be asserted at any time (rules R98,
R117 and R126, I16; notes/assumptions/3.md). -/
opaque freeTurn : Nat → Turn

end Sys2Proof.Config
end

