-- ==== Sys2Proof/Syntax.lean ====
section
/-! DEFINITION. The operations of the block: one constructor per row of spec/opcode_table.json (rule R63). -/

namespace Sys2Proof

/-- The ten operations of rule R63. The first eight are internal operations, which the hardware's fixed sequence runs and which a
model may run on their own (rule R131); the last two are the host's commands (rule R68). -/
inductive Instr where
  /-- `DRIVE_HIGH`, rule R74. -/
  | driveHigh
  /-- `READ_LEVEL`, rule R75. -/
  | readLevel
  /-- `DELAY n`, rules R64 and R76. -/
  | delay (n : BitVec 12)
  /-- `POLL_LOW`, rule R80. -/
  | pollLow
  /-- `POLL_HIGH`, rule R79. -/
  | pollHigh
  /-- `SAMPLE_BIT`, rule R84. -/
  | sampleBit
  /-- `READ_BYTE s`, rules R66 and R88. -/
  | readByte (slot : BitVec 3)
  /-- `VALIDATE`, rule R92. -/
  | validate
  /-- `READ_FRAME`, rule R91. -/
  | readFrame
  /-- `ABORT`, rule R96. -/
  | abort
deriving DecidableEq, Repr

end Sys2Proof
end

