-- ==== Sys2Proof/WellFormed.lean ====
section
/-! DEFINITION. Which operand values an operation may carry (rules R64 and R66). -/

namespace Sys2Proof

/-- The operand is one the opcode map gives: `DELAY n` has `n` in 1..4095 (rule R64), `READ_BYTE s` has `s` in 0..4 (rule R66). -/
def Instr.wf : Instr → Bool
  | .delay n => n != 0
  | .readByte slot => slot ≤ 4
  | .driveHigh => true
  | .readLevel => true
  | .pollLow => true
  | .pollHigh => true
  | .sampleBit => true
  | .validate => true
  | .readFrame => true
  | .abort => true

/-- The two host commands of rule R68. -/
def Instr.isHostCommand : Instr → Bool
  | .readFrame => true
  | .abort => true
  | .driveHigh => false
  | .readLevel => false
  | .delay _ => false
  | .pollLow => false
  | .pollHigh => false
  | .sampleBit => false
  | .readByte _ => false
  | .validate => false

end Sys2Proof
end

