-- ==== Sys2Proof/Decode.lean ====
section
/-! DEFINITION. The decoder of operation words, which refuses each reserved word by name (rule R67), the encoder, and the host's
entry to the decoder. -/

namespace Sys2Proof

/-- Why a word is reserved (rule R67). -/
inductive Reserved where
  /-- `op` is 0x0 or 0xA..0xF. -/
  | opcode
  /-- An operation without operand has a nonzero `arg`. -/
  | argNotZero
  /-- `DELAY 0`, the word 0x3000. -/
  | delayZero
  /-- `POLL` with `arg[11:1]` not 0. -/
  | pollArg
  /-- `READ_BYTE` with `arg` in 5..4095. -/
  | slot
deriving DecidableEq, Repr

/-- Bits 15:12 of a word (rule R62). -/
def opOf (w : Word) : BitVec 4 := w.extractLsb' 12 4

/-- Bits 11:0 of a word (rule R62). -/
def argOf (w : Word) : BitVec 12 := w.extractLsb' 0 12

/-- An operation that takes no operand: its `arg` must be 0 (rules R62 and R67). -/
def noArg (i : Instr) (arg : BitVec 12) : Except Reserved Instr :=
  if arg = 0 then .ok i else .error .argNotZero

/-- `DELAY n` (rule R64). -/
def decodeDelay (arg : BitVec 12) : Except Reserved Instr :=
  if arg = 0 then .error .delayZero else .ok (.delay arg)

/-- `POLL_LOW` and `POLL_HIGH`: `arg[0]` is the target level, `arg[11:1]` must be 0 (rule R65). -/
def decodePoll (arg : BitVec 12) : Except Reserved Instr :=
  if arg.extractLsb' 1 11 ≠ 0 then .error .pollArg
  else if arg.extractLsb' 0 1 = 1 then .ok .pollHigh
  else .ok .pollLow

/-- `READ_BYTE s`: `s = arg[2:0]`, `arg[11:3]` must be 0, 5..7 are reserved (rule R66). -/
def decodeReadByte (arg : BitVec 12) : Except Reserved Instr :=
  if arg.extractLsb' 3 9 ≠ 0 ∨ 4 < arg.extractLsb' 0 3 then .error .slot
  else .ok (.readByte (arg.extractLsb' 0 3))

/-- The opcode map of rule R63, with the reserved words of rule R67 refused by name. -/
def decode (w : Word) : Except Reserved Instr :=
  if opOf w = 0x1 then noArg .driveHigh (argOf w)
  else if opOf w = 0x2 then noArg .readLevel (argOf w)
  else if opOf w = 0x3 then decodeDelay (argOf w)
  else if opOf w = 0x4 then decodePoll (argOf w)
  else if opOf w = 0x5 then noArg .sampleBit (argOf w)
  else if opOf w = 0x6 then decodeReadByte (argOf w)
  else if opOf w = 0x7 then noArg .validate (argOf w)
  else if opOf w = 0x8 then noArg .readFrame (argOf w)
  else if opOf w = 0x9 then noArg .abort (argOf w)
  else .error .opcode

/-- The two fields of rule R62 put together, `op` in the high part. -/
def wordOf (op : BitVec 4) (arg : BitVec 12) : Word := op ++ arg

/-- The word of an operation (rules R63 to R66). -/
def encode : Instr → Word
  | .driveHigh => wordOf 0x1 0
  | .readLevel => wordOf 0x2 0
  | .delay n => wordOf 0x3 n
  | .pollLow => wordOf 0x4 0
  | .pollHigh => wordOf 0x4 1
  | .sampleBit => wordOf 0x5 0
  | .readByte slot => wordOf 0x6 (slot.setWidth 12)
  | .validate => wordOf 0x7 0
  | .readFrame => wordOf 0x8 0
  | .abort => wordOf 0x9 0

/-- The word the host numbers as `nbits` bits of `w`: every operation is one 16-bit word (rule R71). -/
def tableWord (nbits w : Nat) : Word := BitVec.ofNat 16 (w % 2 ^ nbits)

/-- The instruction the decoder reads from the opcode table's bits `w`; none where it refuses the word. -/
def decodeTableWord (nbits w : Nat) : Option Instr :=
  match decode (tableWord nbits w) with
  | .ok i => some i
  | .error _ => none

end Sys2Proof
end

