-- ==== Sys2Proof/Machine/State.lean ====
section
/-! DEFINITION. The state of the block: every register of spec/10_state.md, the trace of its port events, and the environment's
coming answers and moves as plain data; the faults and refusals; the state after reset. -/

namespace Sys2Proof.Machine

/-- The sequencer's phase, the 3-bit register `PHASE` (rule R21); its codes are `Phase.code` in Machine/Flags.lean. -/
inductive Phase where
  | idle
  | startPulse
  | awaitAckHigh
  | awaitAckLow
  | readByte
  | validate
  | done
  | failed
deriving DecidableEq, Repr

/-- The frame buffer `frame[0..4]`: `DATA[0..3]` and `CSUM`, each a byte or no value (rules R20 and R31). -/
structure Frame where
  d0 : Option Byte
  d1 : Option Byte
  d2 : Option Byte
  d3 : Option Byte
  csum : Option Byte
deriving DecidableEq, Repr

/-- The registers that may hold no value (rule R31). -/
inductive RegName where
  | byteIdx
  | bitIdx
  | pollCnt
  | pdly
  | shift
  | bit
  | data0
  | data1
  | data2
  | data3
  | csum
deriving DecidableEq, Repr

/-- Why the machine stops with a fault. All are unreachable in a run of the hardware. -/
inductive Fault where
  /-- Raised by a block step or a `VALIDATE` that reads a register which holds no value. Safe: the spec states the stop (rule R31: a
  model "faults on a read of it; by this rule the fault is unreachable"; I5), and no step of the hardware reaches it. -/
  | noValue (r : RegName)
  /-- Raised by a step that finds `POLL_CNT` above the budget or `BYTE_IDX` above 4 (rule R22, I17). Safe. -/
  | counterRange (r : RegName)
  /-- Raised by a block step at a pair of `PHASE` and `SUB` that the table of rule R99 does not list (notes/assumptions/7.md). Safe. -/
  | position
deriving DecidableEq, Repr

/-- Why the machine refuses to give a meaning. -/
inductive Refusal where
  /-- Raised by an arm of `exec` whose instruction has no meaning yet; safe. No arm raises it in this model. -/
  | notModelled (mnemonic : String)
  /-- Raised by the harness on a reserved word: the decoder refuses it by name (rule R67, I6). Safe. -/
  | reservedWord (r : Reserved)
  /-- Raised by `DELAY` and `READ_BYTE` on an operand the opcode map reserves, which no word decodes to (rules R64, R66 and R67). Safe. -/
  | reservedOperand
  /-- Raised by a step taken while another agent uses the line during a read (rule R133, I7). Safe. -/
  | lineShared
deriving DecidableEq, Repr

/-- The state. An `Option` register is `none` when it holds NO VALUE, which the spec itself writes there (rules R31, R91, R127). -/
structure State where
  /-- `PHASE` (rule R21). -/
  phase : Phase
  /-- `SUB` (rule R21). -/
  sub : BitVec 2
  /-- `BYTE_IDX` (rule R22). -/
  byteIdx : Option (BitVec 3)
  /-- `BIT_IDX` (rule R22). -/
  bitIdx : Option (BitVec 3)
  /-- `POLL_CNT` (rule R22). -/
  pollCnt : Option (BitVec 7)
  /-- `PDLY` (rule R22). -/
  pdly : Option Bool
  /-- `SUSP` (rule R23). -/
  susp : Bool
  /-- `SHIFT` (rule R18). -/
  shift : Option Byte
  /-- `BIT` (rule R19). -/
  bit : Option (BitVec 1)
  /-- `DATA[0..3]` and `CSUM` (rule R20). -/
  frame : Frame
  /-- `RESULT_VALID` (rule R24). -/
  resultValid : Bool
  /-- `STATUS` (rule R24). -/
  status : BitVec 2
  /-- `CAUSE` (rule R24). -/
  cause : Option LineCause
  /-- `OUT_DATA[0..3]` (rule R24). -/
  outData : Payload
  /-- The port events so far, oldest first (rule R40): the observation, not a register (rule R124). -/
  trace : List Event
  /-- The model's own: what the next steps take from outside, first first; a free value once it is used up. -/
  inputs : List Input
  /-- The model's own: the line's coming answers (rule R36); free values once it is used up. -/
  line : List LineAnswer
  /-- The model's own: the coming answers to drives (rule R37); free values once it is used up. -/
  drive : List DriveAnswer
  /-- The model's own: how many free values have been drawn. -/
  draws : Nat
  /-- The model's own: another agent is using the line (rule R133). -/
  lineShared : Bool
deriving DecidableEq, Repr

/-- No byte of the frame buffer holds a value. -/
def Frame.empty : Frame := { d0 := none, d1 := none, d2 := none, d3 := none, csum := none }

/-- `[0x00, 0x00, 0x00, 0x00]`. -/
def Payload.zero : Payload := { b0 := 0, b1 := 0, b2 := 0, b3 := 0 }

/-- The state after reset (rules R32 and R127); the model's own fields are empty (notes/assumptions/3.md). -/
def State.reset : State where
  phase := .idle
  sub := 0
  byteIdx := none
  bitIdx := none
  pollCnt := none
  pdly := none
  susp := false
  shift := none
  bit := none
  frame := Frame.empty
  resultValid := false
  status := 0
  cause := none
  outData := Payload.zero
  trace := []
  inputs := []
  line := []
  drive := []
  draws := 0
  lineShared := false

end Sys2Proof.Machine
end

