-- ==== Sys2Proof/Machine/Flags.lean ====
section
/-! DEFINITION. The derived flags and codes: `BUSY`, who is enabled, the encodings of `PHASE`, `STATUS` and levels, the launch
premise, and the packed status byte (rules R12, R21, R25, R69, R70, R98, R129). -/

namespace Sys2Proof.Machine

/-- The 3-bit code of a phase (rule R21). -/
def Phase.code : Phase → BitVec 3
  | .idle => 0
  | .startPulse => 1
  | .awaitAckHigh => 2
  | .awaitAckLow => 3
  | .readByte => 4
  | .validate => 5
  | .done => 6
  | .failed => 7

/-- `PHASE in {1, 2, 3, 4, 5}` (rule R25). -/
def Phase.busy : Phase → Bool
  | .idle => false
  | .startPulse => true
  | .awaitAckHigh => true
  | .awaitAckLow => true
  | .readByte => true
  | .validate => true
  | .done => false
  | .failed => false

/-- `BUSY`, which is not a register (rule R25). -/
def State.busy (s : State) : Bool := s.phase.busy

/-- The block may take a step: `BUSY = 1` and `SUSP = 0` (rules R23 and R98). -/
def State.blockEnabled (s : State) : Bool := s.busy && !s.susp

/-- The registers' part of the launch premise `clean_entry` (rule R129). -/
def State.cleanEntry (s : State) : Bool := !s.busy && !s.susp && !s.lineShared

/-- Two agents use the line at once: another one uses it during a read, which borrows it exclusively (rules R57 and R133). -/
def State.lineConflict (s : State) : Bool := s.busy && s.lineShared

/-- A level as a bit: `High` is 1, `Low` is 0 (rules R12 and R70). -/
def Level.bit : Level → BitVec 1
  | .high => 1
  | .low => 0

/-- The level that a bit samples from (rule R61). -/
def Level.ofBit (b : BitVec 1) : Level := if b = 1 then .high else .low

/-- The other level. -/
def Level.other : Level → Level
  | .high => .low
  | .low => .high

/-- The status code of a failure kind (rules R69 and R108); 0 is success. -/
def FailKind.code : FailKind → BitVec 2
  | .lineError _ => 1
  | .timeout => 2
  | .checksumMismatch => 3

/-- What a failure records in `CAUSE`: the line's cause unmodified, none for the other kinds (rules R69 and R113). -/
def FailKind.cause : FailKind → Option LineCause
  | .lineError c => some c
  | .timeout => none
  | .checksumMismatch => none

/-- The packed status byte: bit 0 `BUSY`, bit 1 `RESULT_VALID`, bits 3:2 `STATUS`, bits 7:4 zero (rule R69). -/
def State.statusByte (s : State) : Byte :=
  (0 : BitVec 4) ++ s.status ++ BitVec.ofBool s.resultValid ++ BitVec.ofBool s.busy

end Sys2Proof.Machine
end

