-- ==== Sys2Proof/Machine/Operands.lean ====
section
/-! DEFINITION. The data computations: the fold of a bit into a byte, the wrapping sum, the frame buffer's slots, the packed data
word, and the delay's count (rules R11, R18, R45, R64, R66). -/

namespace Sys2Proof.Machine

/-- `{SHIFT[6:0], BIT}`: the old bit 7 is dropped (rules R18 and R88). -/
def foldBit (shift : Byte) (b : BitVec 1) : Byte := shift.extractLsb' 0 7 ++ b

/-- `wsum`: the sum of four bytes mod 256 (rule R11). -/
def wsum (d0 d1 d2 d3 : Byte) : Byte := d0 + d1 + d2 + d3

/-- `frame[slot] <- v`: slots 0..3 are `DATA[slot]`, slot 4 is `CSUM` (rules R13 and R66); there is no other slot. -/
def Frame.write (f : Frame) (slot : BitVec 3) (v : Byte) : Frame :=
  if slot = 0 then { f with d0 := some v }
  else if slot = 1 then { f with d1 := some v }
  else if slot = 2 then { f with d2 := some v }
  else if slot = 3 then { f with d3 := some v }
  else if slot = 4 then { f with csum := some v }
  else f

/-- `frame[slot]`. -/
def Frame.read (f : Frame) (slot : BitVec 3) : Option Byte :=
  if slot = 0 then f.d0
  else if slot = 1 then f.d1
  else if slot = 2 then f.d2
  else if slot = 3 then f.d3
  else if slot = 4 then f.csum
  else none

/-- The wrapping sum of a payload. -/
def Payload.sum (p : Payload) : Byte := wsum p.b0 p.b1 p.b2 p.b3

/-- The data word, `OUT_DATA[0]` in bits 31:24 (rules R45 and R69). -/
def Payload.word (p : Payload) : BitVec 32 := p.b0 ++ p.b1 ++ p.b2 ++ p.b3

/-- `n = zext_16(arg[11:0])`, the count of a `DELAY n` (rule R64). -/
def delayCount (n : BitVec 12) : Nat := (n.setWidth 16).toNat

end Sys2Proof.Machine
end

