-- ==== Sys2Proof/Machine/Ops.lean ====
section
/-! DEFINITION. The shared operations: the trace, the three port operations, a wait's counters, the failure entry (what plays the
part of taking an exception here, rule R113), the acceptance of a read, reset, and the taking of the next input. -/

namespace Sys2Proof.Machine

/-- What a step or an operation answers. -/
abbrev Out := Host.Outcome State Fault Refusal

/-- Reads a register that may hold no value, the state that acceptance and reset write (rules R91 and R127); where it holds none the
model faults, as rule R31 and I5 say in words. -/
def withReg {α : Type} (r : RegName) (v : Option α) (k : α → Out) : Out :=
  match v with
  | some x => k x
  | none => .fault (.noValue r)

/-- The answer the next `LineRead()` gets: the line's next one, or a free value (rule R36, I1). -/
def State.lineAnswer (s : State) : LineAnswer := s.line.head?.getD (Config.freeLine s.draws)

/-- `LineRead()`: one event, the answer used up; no effect on the line (rules R36, R40, R50). -/
def State.lineRead (s : State) : State :=
  { s with
    line := s.line.tail
    draws := if s.line.isEmpty then s.draws + 1 else s.draws
    trace := s.trace ++ [.read s.lineAnswer] }

/-- The answer the next `LineDriveHigh()` gets (rule R37, I2). -/
def State.driveAnswer (s : State) : DriveAnswer := s.drive.head?.getD (Config.freeDrive s.draws)

/-- `LineDriveHigh()`: one event; its answer is not looked at (rules R37 and R40). -/
def State.lineDriveHigh (s : State) : State :=
  { s with
    drive := s.drive.tail
    draws := if s.drive.isEmpty then s.draws + 1 else s.draws
    trace := s.trace ++ [.drive .high s.driveAnswer] }

/-- The issue of `Delay(n)`: the block is suspended (rules R23 and R41). -/
def State.issueDelay (n : Nat) (s : State) : State := { s with susp := true, trace := s.trace ++ [.delay n] }

/-- The time source completes the outstanding delay (rule R98). -/
def State.delayDone (s : State) : State := { s with susp := false, trace := s.trace ++ [.delayDone] }

/-- A whole delay: issued, and completed by the time source before any other event of the block (rule R40). -/
def State.delay (n : Nat) (s : State) : State := (s.issueDelay n).delayDone

/-- `wait_reset` (rule R99): every wait starts with its counters at 0 (rule R22). -/
def State.waitReset (s : State) : State := { s with pollCnt := some 0, pdly := some false }

/-- `fail(kind, c)` of rule R113: the one entry into a failed read, one step. -/
def State.failEntry (k : FailKind) (s : State) : State :=
  { s with
    status := k.code
    cause := k.cause
    outData := Payload.zero
    resultValid := true
    phase := .failed
    sub := 0
    trace := s.trace ++ [.result k.code k.cause Payload.zero] }

/-- The result registers of a read that succeeded, written in one step with `PHASE` (rule R92). -/
def State.okEntry (d : Payload) (s : State) : State :=
  { s with
    outData := d
    status := 0
    cause := none
    resultValid := true
    phase := .done
    sub := 0
    trace := s.trace ++ [.result 0 none d] }

/-- The acceptance of a `READ_FRAME` (rule R91, `accept`): the result cleared, every datapath register and counter left without a
value (rule R30). -/
def State.accept (s : State) : State :=
  { s with
    resultValid := false
    status := 0
    cause := none
    outData := Payload.zero
    shift := none
    bit := none
    frame := Frame.empty
    byteIdx := none
    bitIdx := none
    pollCnt := none
    pdly := none
    phase := .startPulse
    sub := 0
    trace := s.trace ++ [.accept] }

/-- An `ABORT` taken while a read is in progress: an outstanding delay is abandoned, no result (rule R96). -/
def State.abortRead (s : State) : State :=
  { s with phase := .idle, sub := 0, susp := false, trace := s.trace ++ [.abort] }

/-- The effect of the reset input on the registers (rule R127); it is no port event, and it leaves the environment alone. -/
def State.resetBlock (s : State) : State :=
  { s with
    phase := .idle
    sub := 0
    susp := false
    resultValid := false
    status := 0
    cause := none
    outData := Payload.zero
    byteIdx := none
    bitIdx := none
    pollCnt := none
    pdly := none
    shift := none
    bit := none
    frame := Frame.empty }

/-- The time source's turn: it completes the outstanding delay; with none outstanding, a completion still delivered is dropped
(rules R98 and R127). -/
def State.timeTurn (s : State) : State := if s.susp then s.delayDone else s

/-- What the next step takes from outside: the next input listed, or a turn that is a free value. -/
def State.nextInput (s : State) : Input := s.inputs.head?.getD (.turn (Config.freeTurn s.draws))

/-- The state once that input is taken. -/
def State.takeInput (s : State) : State :=
  { s with
    inputs := s.inputs.tail
    draws := if s.inputs.isEmpty then s.draws + 1 else s.draws }

/-- How an operation run as a whole ends: it returns a value to its caller, or it has raised a failure, whose entry is made and after
which nothing more of the read executes (rules R13, R14, R112). -/
inductive Run (α : Type) where
  | ok (v : α) (s : State)
  | failed (s : State)

/-- The next operation of a sequence: a failure passes up unchanged (rule R112). -/
def Run.andThen {α β : Type} (r : Run α) (k : α → State → Run β) : Run β :=
  match r with
  | .ok v s => k v s
  | .failed s => .failed s

/-- The state in which a run ends. -/
def Run.state {α : Type} : Run α → State
  | .ok _ s => s
  | .failed s => s

/-- An internal operation is a step of the block's: it is taken only while `BUSY = 1` and `SUSP = 0` (rules R98 and R131); otherwise
nothing happens. -/
def whenEnabled (s : State) (k : State → Out) : Out := if s.blockEnabled then k s else .next s

end Sys2Proof.Machine
end

