-- ==== Sys2Proof/Machine/LineOps.lean ====
section
/-! DEFINITION. The primitives `DRIVE_HIGH`, `READ_LEVEL` and `DELAY n` (spec/40_line_ops.md). -/

namespace Sys2Proof.Machine

/-- `READ_LEVEL` as a sub-step: one `LineRead()`, the sampled level into `BIT`; an `Err(c)` raises `LineError(c)` and leaves `BIT`
alone (rule R75). -/
def sampleLevel (s : State) : Run (BitVec 1) :=
  match s.lineAnswer with
  | .level l => .ok l.bit { s.lineRead with bit := some l.bit }
  | .err c => .failed (s.lineRead.failEntry (.lineError c))

/-- `DRIVE_HIGH` (rule R74). -/
def execDriveHigh (s : State) : Out := whenEnabled s fun s => .next s.lineDriveHigh

/-- `READ_LEVEL` (rule R75). -/
def execReadLevel (s : State) : Out := whenEnabled s fun s => .next (sampleLevel s).state

/-- `DELAY n` (rule R76): `SUSP` is 1 from the issue to the completion, and 0 after; `DELAY 0` is reserved (rule R64). -/
def execDelay (n : BitVec 12) (s : State) : Out :=
  if n = 0 then .refused .reservedOperand
  else whenEnabled s fun s => .next (s.delay (delayCount n))

end Sys2Proof.Machine
end

