-- ==== Sys2Proof/Machine/TimeoutPoller.lean ====
section
/-! DEFINITION. The TimeoutPoller: `POLL_HIGH` and `POLL_LOW` as the loop of rule R78 (spec/41_timeout_poller.md). -/

namespace Sys2Proof.Machine

/-- One check of a wait: `LineRead()` and `POLL_CNT + 1` (rule R78); `BIT` is never written. -/
def State.check (cnt : BitVec 7) (s : State) : State := { s.lineRead with pollCnt := some (cnt + 1) }

/-- The delay owed after an unsuccessful check, issued and completed; `PDLY` is 1 until it is issued (rule R78). -/
def State.owedDelay (s : State) : State := ({ s with pdly := some false }).delay Config.pollDelay

/-- The loop of rule R78 with `left` checks left in the budget and `cnt` made. A line error is looked at before the level, the level
before the budget (rules R82 and R116). -/
def pollLoop (P : Config.Params) (T : Level) : Nat → BitVec 7 → State → Run Unit
  | 0, _, s => .failed (s.failEntry .timeout)
  | left + 1, cnt, s =>
    match s.lineAnswer with
    | .err c => .failed ((s.check cnt).failEntry (.lineError c))
    | .level l =>
      if l = T then .ok () (s.check cnt)
      else if left = 0 then
        .failed ((if P.delayAfterLast then (s.check cnt).owedDelay else s.check cnt).failEntry .timeout)
      else pollLoop P T left (cnt + 1) (s.check cnt).owedDelay

/-- `POLL(T)` (rule R78). -/
def poll (P : Config.Params) (T : Level) (s : State) : Run Unit := pollLoop P T P.budget 0 s.waitReset

/-- `POLL_HIGH` (rule R79). -/
def execPollHigh (s : State) : Out := whenEnabled s fun s => .next (poll Config.hw .high s).state

/-- `POLL_LOW` (rule R80). -/
def execPollLow (s : State) : Out := whenEnabled s fun s => .next (poll Config.hw .low s).state

end Sys2Proof.Machine
end

