-- ==== Sys2Proof/Machine/BitSampler.lean ====
section
/-! DEFINITION. The BitSampler: `SAMPLE_BIT` (spec/42_bit_sampler.md). -/

namespace Sys2Proof.Machine

/-- `SAMPLE_BIT` as a sub-step: the four steps of rule R84 in its order; the bit is returned only after the fall. -/
def sampleBit (P : Config.Params) (s : State) : Run (BitVec 1) :=
  (poll P .high s).andThen fun _ s =>
  (sampleLevel (s.delay Config.sampleDelay)).andThen fun b s =>
  (poll P .low s).andThen fun _ s => .ok b s

/-- `SAMPLE_BIT` (rule R84). -/
def execSampleBit (s : State) : Out := whenEnabled s fun s => .next (sampleBit Config.hw s).state

end Sys2Proof.Machine
end

