-- ==== Sys2Proof/Machine/ByteAssembler.lean ====
section
/-! DEFINITION. The ByteAssembler: `READ_BYTE s` (spec/43_byte_assembler.md). -/

namespace Sys2Proof.Machine

/-- The loop of rule R88 from bit `i`, with `left` bits to read and `sh` in `SHIFT`. -/
def readBits (P : Config.Params) : Nat → BitVec 3 → Byte → State → Run Byte
  | 0, _, sh, s => .ok sh s
  | left + 1, i, sh, s =>
    (sampleBit P { s with bitIdx := some i }).andThen fun b s =>
    readBits P left (i + 1) (foldBit sh b) { s with shift := some (foldBit sh b) }

/-- `READ_BYTE(slot)` as a sub-step: eight bits folded into `SHIFT`, then `frame[slot] <- SHIFT` (rule R88). -/
def readByte (P : Config.Params) (slot : BitVec 3) (s : State) : Run Byte :=
  (readBits P Config.bitsPerByte 0 0 { s with shift := some 0 }).andThen fun sh s =>
  .ok sh { s with frame := s.frame.write slot sh }

/-- `READ_BYTE s` (rule R88); slots 5..7 are reserved (rule R66). -/
def execReadByte (slot : BitVec 3) (s : State) : Out :=
  if 4 < slot then .refused .reservedOperand
  else whenEnabled s fun s => .next (readByte Config.hw slot s).state

end Sys2Proof.Machine
end

