-- ==== Sys2Proof/Machine/FrameReader.lean ====
section
/-! DEFINITION. The FrameReader: `VALIDATE`, `READ_FRAME` and `ABORT`, and a whole read as the sequential program of rule R91
(spec/44_frame_reader.md). -/

namespace Sys2Proof.Machine

/-- `VALIDATE` as a sub-step (rule R92): reads the frame buffer, makes no port event, and writes the result in one step. -/
def validate (s : State) : Out :=
  withReg .data0 s.frame.d0 fun d0 =>
  withReg .data1 s.frame.d1 fun d1 =>
  withReg .data2 s.frame.d2 fun d2 =>
  withReg .data3 s.frame.d3 fun d3 =>
  withReg .csum s.frame.csum fun c =>
  if wsum d0 d1 d2 d3 = c then .next (s.okEntry { b0 := d0, b1 := d1, b2 := d2, b3 := d3 })
  else .next (s.failEntry .checksumMismatch)

/-- `VALIDATE` (rule R92). -/
def execValidate (s : State) : Out := whenEnabled s validate

/-- `READ_FRAME` at the host port (rule R91): accepted while `BUSY = 0`; one presented while `BUSY = 1` is not accepted and changes
nothing (rule R42). The steps of the accepted read are the block's (rule R98; Machine/Sequencer.lean). -/
def execReadFrame (s : State) : Out := if s.busy then .next s else .next s.accept

/-- `ABORT` at the host port (rule R96). -/
def execAbort (s : State) : Out := if s.busy then .next s.abortRead else .next s

/-- The bytes of rule R91 steps 4 and 5, from byte `j`, with `left` to read. -/
def readBytes (P : Config.Params) : Nat → BitVec 3 → State → Run Unit
  | 0, _, s => .ok () s
  | left + 1, j, s =>
    (readByte P j { s with byteIdx := some j }).andThen fun _ s => readBytes P left (j + 1) s

/-- Steps 1 to 5 of rule R91, run as one sequential program. -/
def readSteps (P : Config.Params) (s : State) : Run Unit :=
  (poll P .high (s.lineDriveHigh.delay Config.startDelay)).andThen fun _ s =>
  (poll P .low s).andThen fun _ s =>
  readBytes P Config.frameBytes 0 s

/-- A whole read as the sequential program of rule R91, from its acceptance to its result, with every delay completed: the function
of the answers that rule R105 speaks of. No step runs it; the step machine is held to it. -/
def readWhole (P : Config.Params) (s : State) : Out :=
  match readSteps P s.accept with
  | .ok _ t => validate t
  | .failed t => .next t

end Sys2Proof.Machine
end

