-- ==== Sys2Proof/Machine/Dispatch.lean ====
section
/-! DEFINITION. The meaning of each operation, one arm per constructor of Instr. -/

namespace Sys2Proof.Machine

-- The operation run as a whole (rules R74 to R96): an internal operation in harness mode (rule R131), a host command at the host port.
def exec (i : Instr) (s : State) : Host.Outcome State Fault Refusal :=
  match i with
  | .driveHigh => Sys2Proof.Machine.execDriveHigh s
  | .readLevel => Sys2Proof.Machine.execReadLevel s
  | .delay n => Sys2Proof.Machine.execDelay n s
  | .pollLow => Sys2Proof.Machine.execPollLow s
  | .pollHigh => Sys2Proof.Machine.execPollHigh s
  | .sampleBit => Sys2Proof.Machine.execSampleBit s
  | .readByte slot => Sys2Proof.Machine.execReadByte slot s
  | .validate => Sys2Proof.Machine.execValidate s
  | .readFrame => Sys2Proof.Machine.execReadFrame s
  | .abort => Sys2Proof.Machine.execAbort s

end Sys2Proof.Machine
end

