-- ==== Sys2Proof/Machine/Sequencer.lean ====
section
/-! DEFINITION. The reference step machine: the block's step at each sequencer position (spec/45_sequencer.md). -/

namespace Sys2Proof.Machine

/-- `poll_step(T, K)` (rule R100): one check, one owed delay, or the timeout. -/
def pollStep (P : Config.Params) (T : Level) (K : State → Out) (s : State) : Out :=
  withReg .pollCnt s.pollCnt fun cnt =>
  withReg .pdly s.pdly fun owed =>
  if P.budget < cnt.toNat then .fault (.counterRange .pollCnt)
  else if cnt.toNat = P.budget ∧ owed = false then .next (s.failEntry .timeout)
  else if owed then .next (({ s with pdly := some false }).issueDelay Config.pollDelay)
  else
    match s.lineAnswer with
    | .err c => .next ((s.check cnt).failEntry (.lineError c))
    | .level l =>
      if l = T then K (s.check cnt)
      else if cnt.toNat + 1 = P.budget ∧ P.delayAfterLast = false then .next ((s.check cnt).failEntry .timeout)
      else .next { s.check cnt with pdly := some true }

/-- `fold_next` (rule R101): the fold, and the next bit, the next byte, or validation. -/
def foldNext (s : State) : Out :=
  withReg .shift s.shift fun sh =>
  withReg .bit s.bit fun b =>
  withReg .bitIdx s.bitIdx fun i =>
  if i < 7 then
    .next ({ s with shift := some (foldBit sh b), bitIdx := some (i + 1), sub := 0 }).waitReset
  else
    withReg .byteIdx s.byteIdx fun j =>
    if 4 < j then .fault (.counterRange .byteIdx)
    else if j < 4 then
      .next ({ s with
        frame := s.frame.write j (foldBit sh b), byteIdx := some (j + 1), bitIdx := some 0, shift := some 0,
        sub := 0 }).waitReset
    else
      .next { s with
        frame := s.frame.write j (foldBit sh b), shift := some (foldBit sh b), phase := .validate, sub := 0 }

/-- START_PULSE of rule R99. -/
def startPulseStep (s : State) : Out :=
  if s.sub = 0 then .next { s.lineDriveHigh with sub := 1 }
  else if s.sub = 1 then .next (({ s with phase := .awaitAckHigh, sub := 0 }).waitReset.issueDelay Config.startDelay)
  else .fault .position

/-- `K1` of rule R99. -/
def afterAckHigh (s : State) : Out := .next ({ s with phase := .awaitAckLow }).waitReset

/-- `K2` of rule R99. -/
def afterAckLow (s : State) : Out :=
  .next ({ s with phase := .readByte, sub := 0, byteIdx := some 0, bitIdx := some 0, shift := some 0 }).waitReset

/-- `K3` of rule R99. -/
def afterRise (s : State) : Out := .next { s with sub := 1 }

/-- SAMPLE of rule R99. -/
def sampleStep (s : State) : Out :=
  match sampleLevel s with
  | .ok _ t => .next ({ t with sub := 3 }).waitReset
  | .failed t => .next t

/-- READ_BYTE of rule R99. -/
def readByteStep (P : Config.Params) (s : State) : Out :=
  if s.sub = 0 then pollStep P .high afterRise s
  else if s.sub = 1 then .next (({ s with sub := 2 }).issueDelay Config.sampleDelay)
  else if s.sub = 2 then sampleStep s
  else pollStep P .low foldNext s

/-- A position that R99's table lists with `SUB` 0 only. -/
def atSubZero (k : State → Out) (s : State) : Out := if s.sub = 0 then k s else .fault .position

/-- The block's step by sequencer position (rule R99). It is taken only while the block is enabled. -/
def blockStep (P : Config.Params) (s : State) : Out :=
  match s.phase with
  | .idle => .next s
  | .startPulse => startPulseStep s
  | .awaitAckHigh => atSubZero (pollStep P .high afterAckHigh) s
  | .awaitAckLow => atSubZero (pollStep P .low afterAckLow) s
  | .readByte => readByteStep P s
  | .validate => atSubZero validate s
  | .done => .next s
  | .failed => .next s

/-- The block's turn: its step if it is enabled, nothing otherwise (rules R23 and R98). -/
def blockTurn (P : Config.Params) (s : State) : Out := if s.blockEnabled then blockStep P s else .next s

/-- The read goes on undisturbed: an outstanding delay is completed, then the block takes its step (rules R98 and R139). -/
def blockStepDelaysComplete (P : Config.Params) (s : State) : Out := blockTurn P s.timeTurn

/-- `n` such steps, stopping at the first fault or refusal. -/
def blockSteps (P : Config.Params) : Nat → State → Out
  | 0, s => .next s
  | n + 1, s =>
    match blockStepDelaysComplete P s with
    | .next t => blockSteps P n t
    | .fault f => .fault f
    | .refused r => .refused r

end Sys2Proof.Machine
end

