-- ==== Sys2Proof/Machine/HostPort.lean ====
section
/-! DEFINITION. The host port (rules R27, R42, R67, R68), the harness (rule R131), and how one input is run. -/

namespace Sys2Proof.Machine

/-- The fields the host port presents (rule R27). Reading them has no side effect (rule R42): it is a function of the state. -/
structure HostView where
  busy : Bool
  resultValid : Bool
  status : BitVec 2
  cause : Option LineCause
  outData : Payload
deriving DecidableEq, Repr

/-- What the host reads (rule R27). -/
def State.hostView (s : State) : HostView :=
  { busy := s.busy, resultValid := s.resultValid, status := s.status, cause := s.cause, outData := s.outData }

/-- The packed data word (rules R45 and R69). -/
def State.dataWord (s : State) : BitVec 32 := s.outData.word

/-- The result of READ_FRAME (rule R14): `Ok(d)` or `Err(kind)`, once the result registers are valid (rule R24); none before, and
none for a status that carries no cause where it must. -/
def State.result (s : State) : Option (Except FailKind Payload) :=
  if s.resultValid then
    if s.status = 0 then some (.ok s.outData)
    else if s.status = 1 then s.cause.map fun c => .error (.lineError c)
    else if s.status = 2 then some (.error .timeout)
    else some (.error .checksumMismatch)
  else none

/-- A word written to the host port: the two host commands are taken, every other word is not accepted and changes nothing (rules R67
and R68). -/
def hostWrite (w : Word) (s : State) : Out :=
  match decode w with
  | .ok i => if i.isHostCommand then exec i s else .next s
  | .error _ => .next s

/-- A word run in harness mode (rule R131): the decoder refuses a reserved word by name (rule R67). DESIGN CHOICE
(notes/assumptions/27.md): R131 and D29 give harness mode the internal words only and are silent on a host command word given there;
0x8000 and 0x9000 run here with the meaning they have at the host port. -/
def harnessRun (w : Word) (s : State) : Out :=
  match decode w with
  | .ok i => exec i s
  | .error r => .refused (.reservedWord r)

/-- One move of the hardware (rule R98). -/
def runMove (m : Move) (s : State) : Out :=
  match m with
  | .block => blockTurn Config.hw s
  | .timeSource => .next s.timeTurn
  | .host w => hostWrite w s
  | .lineUser on => .next { s with lineShared := on }

/-- One input, already taken off `inputs`. Reset wins over every other event (rule R117); a shared line is refused (rule R133). -/
def runInput (i : Input) (s : State) : Out :=
  match i with
  | .turn t =>
    if t.reset then .next s.resetBlock
    else if s.lineConflict then .refused .lineShared
    else runMove t.move s
  | .harness w => if s.lineConflict then .refused .lineShared else harnessRun w s

/-- A byte the frame buffer holds, or 0x00 where it holds none. -/
def Frame.filled (f : Frame) : Frame :=
  { d0 := some (f.d0.getD 0), d1 := some (f.d1.getD 0), d2 := some (f.d2.getD 0), d3 := some (f.d3.getD 0),
    csum := some (f.csum.getD 0) }

/-- A start state of harness mode (rule R131): `BUSY = 1`, no delay outstanding, the registers an operation's rule reads hold values
(notes/assumptions/17.md). -/
def State.harnessStart (s : State) : State :=
  { s with phase := .readByte, sub := 0, susp := false, frame := s.frame.filled, lineShared := false }

/-- The word `w` placed as the next input: a host command as the host's next write, any other word as the harness's. -/
def State.place (w : Word) (s : State) : State :=
  match decode w with
  | .ok i =>
    if i.isHostCommand then
      { s with lineShared := false, inputs := .turn { reset := false, move := .host w } :: s.inputs }
    else { s.harnessStart with inputs := .harness w :: s.inputs }
  | .error _ => { s with lineShared := false, inputs := .harness w :: s.inputs }

end Sys2Proof.Machine
end

