-- ==== Sys2Proof/Machine/Step.lean ====
section
/-! DEFINITION. One step of the machine: it takes one input and runs it. -/

namespace Sys2Proof.Machine

/-- One step: one agent's move, a reset, or one operation in harness mode. -/
def step (s : State) : Host.Outcome State Fault Refusal := runInput s.nextInput s.takeInput

/-- `s` with the operation word of the opcode table's bits `w` placed where `step` takes its next input from
(notes/assumptions/17.md). -/
def State.withFetchWord (s : State) (nbits w : Nat) : State := s.place (tableWord nbits w)

end Sys2Proof.Machine
end

