-- ==== Sys2Proof/Machine/Assembler.lean ====
section
/-! DEFINITION. The assembler syntax of rule R72: one operation a line, mnemonic in capitals, an operand in decimal or in hexadecimal
with `0x`, a comment from `;` to the end of the line. Text is a list of characters. -/

namespace Sys2Proof.Machine

/-- Why a line is not one of the forms of rule R72. -/
inductive AsmError where
  /-- The first token is none of the ten mnemonics. -/
  | mnemonic
  /-- The operand is missing, is there where none belongs, or is not a numeral. -/
  | operand
  /-- The operand is a numeral outside the range of rule R72. -/
  | range
deriving DecidableEq, Repr

/-- Space, tab and carriage return separate the tokens of a line. DESIGN CHOICE, safe (notes/assumptions/23.md). -/
def isBlank (c : Char) : Bool := c = ' ' || c = '\t' || c = '\r'

/-- The line without its comment. -/
def stripComment (cs : List Char) : List Char := cs.takeWhile (· ≠ ';')

/-- The tokens of a text, with `cur` the characters of the one being read, last first. -/
def tokensFrom : List Char → List Char → List (List Char)
  | cur, [] => if cur.isEmpty then [] else [cur.reverse]
  | cur, c :: cs =>
    if isBlank c then (if cur.isEmpty then tokensFrom [] cs else cur.reverse :: tokensFrom [] cs)
    else tokensFrom (c :: cur) cs

/-- The value of a digit character, in base 16. -/
def digitValue (c : Char) : Option Nat :=
  if '0' ≤ c ∧ c ≤ '9' then some (c.toNat - '0'.toNat)
  else if 'a' ≤ c ∧ c ≤ 'f' then some (c.toNat - 'a'.toNat + 10)
  else if 'A' ≤ c ∧ c ≤ 'F' then some (c.toNat - 'A'.toNat + 10)
  else none

/-- The value of a string of digits in a base, after `acc`. -/
def digitsValue (base : Nat) : Nat → List Char → Option Nat
  | acc, [] => some acc
  | acc, c :: cs =>
    match digitValue c with
    | some d => if d < base then digitsValue base (acc * base + d) cs else none
    | none => none

/-- A numeral: decimal digits, or `0x` and hexadecimal digits (rule R72). -/
def numeral : List Char → Option Nat
  | [] => none
  | ['0', 'x'] => none
  | '0' :: 'x' :: cs => digitsValue 16 0 cs
  | cs => digitsValue 10 0 cs

/-- The operation of a mnemonic that takes no operand. -/
def plainMnemonic (cs : List Char) : Option Instr :=
  if cs = ['D', 'R', 'I', 'V', 'E', '_', 'H', 'I', 'G', 'H'] then some .driveHigh
  else if cs = ['R', 'E', 'A', 'D', '_', 'L', 'E', 'V', 'E', 'L'] then some .readLevel
  else if cs = ['P', 'O', 'L', 'L', '_', 'L', 'O', 'W'] then some .pollLow
  else if cs = ['P', 'O', 'L', 'L', '_', 'H', 'I', 'G', 'H'] then some .pollHigh
  else if cs = ['S', 'A', 'M', 'P', 'L', 'E', '_', 'B', 'I', 'T'] then some .sampleBit
  else if cs = ['V', 'A', 'L', 'I', 'D', 'A', 'T', 'E'] then some .validate
  else if cs = ['R', 'E', 'A', 'D', '_', 'F', 'R', 'A', 'M', 'E'] then some .readFrame
  else if cs = ['A', 'B', 'O', 'R', 'T'] then some .abort
  else none

/-- The mnemonic `DELAY`. -/
def delayMnemonic : List Char := ['D', 'E', 'L', 'A', 'Y']

/-- The mnemonic `READ_BYTE`. -/
def readByteMnemonic : List Char := ['R', 'E', 'A', 'D', '_', 'B', 'Y', 'T', 'E']

/-- `DELAY <n>`, n in 1..4095, and `READ_BYTE <s>`, s in 0..4. -/
def assembleOperand (m : List Char) (n : Nat) : Except AsmError Instr :=
  if m = delayMnemonic then
    if 1 ≤ n ∧ n ≤ 4095 then .ok (.delay (BitVec.ofNat 12 n)) else .error .range
  else if m = readByteMnemonic then
    if n ≤ 4 then .ok (.readByte (BitVec.ofNat 3 n)) else .error .range
  else if (plainMnemonic m).isSome then .error .operand
  else .error .mnemonic

/-- One operation from its tokens. -/
def assembleTokens : List (List Char) → Except AsmError (Option Instr)
  | [] => .ok none
  | [m] =>
    match plainMnemonic m with
    | some i => .ok (some i)
    | none => if m = delayMnemonic ∨ m = readByteMnemonic then .error .operand else .error .mnemonic
  | [m, x] =>
    match numeral x with
    | some n => (assembleOperand m n).map some
    | none => .error .operand
  | _ :: _ :: _ :: _ => .error .operand

/-- One line: an operation, or nothing where it holds only blanks and a comment. -/
def assembleLine (cs : List Char) : Except AsmError (Option Instr) := assembleTokens (tokensFrom [] (stripComment cs))

/-- The hexadecimal digit of a nibble. -/
def hexDigit (n : BitVec 4) : Char :=
  if n.toNat < 10 then Char.ofNat ('0'.toNat + n.toNat) else Char.ofNat ('a'.toNat + (n.toNat - 10))

/-- A 12-bit operand as a numeral, `0x` and three digits. -/
def operandText (v : BitVec 12) : List Char :=
  ['0', 'x', hexDigit (v.extractLsb' 8 4), hexDigit (v.extractLsb' 4 4), hexDigit (v.extractLsb' 0 4)]

/-- The character of a decimal digit. -/
def decimalDigit (n : Nat) : Char := Char.ofNat ('0'.toNat + n)

/-- A 12-bit operand as a decimal numeral without leading zeros. -/
def decimalText (v : BitVec 12) : List Char :=
  if v.toNat < 10 then [decimalDigit v.toNat]
  else if v.toNat < 100 then [decimalDigit (v.toNat / 10), decimalDigit (v.toNat % 10)]
  else if v.toNat < 1000 then
    [decimalDigit (v.toNat / 100), decimalDigit (v.toNat / 10 % 10), decimalDigit (v.toNat % 10)]
  else
    [decimalDigit (v.toNat / 1000), decimalDigit (v.toNat / 100 % 10), decimalDigit (v.toNat / 10 % 10),
      decimalDigit (v.toNat % 10)]

/-- The text of an operation in the form of rule R72, with `gap` between the mnemonic and an operand written by `num`. -/
def asmTextWith (gap : List Char) (num : BitVec 12 → List Char) : Instr → List Char
  | .driveHigh => ['D', 'R', 'I', 'V', 'E', '_', 'H', 'I', 'G', 'H']
  | .readLevel => ['R', 'E', 'A', 'D', '_', 'L', 'E', 'V', 'E', 'L']
  | .delay n => delayMnemonic ++ gap ++ num n
  | .pollLow => ['P', 'O', 'L', 'L', '_', 'L', 'O', 'W']
  | .pollHigh => ['P', 'O', 'L', 'L', '_', 'H', 'I', 'G', 'H']
  | .sampleBit => ['S', 'A', 'M', 'P', 'L', 'E', '_', 'B', 'I', 'T']
  | .readByte slot => readByteMnemonic ++ gap ++ num (slot.setWidth 12)
  | .validate => ['V', 'A', 'L', 'I', 'D', 'A', 'T', 'E']
  | .readFrame => ['R', 'E', 'A', 'D', '_', 'F', 'R', 'A', 'M', 'E']
  | .abort => ['A', 'B', 'O', 'R', 'T']

/-- The text of an operation, its operand in hexadecimal after one space. -/
def asmText (i : Instr) : List Char := asmTextWith [' '] operandText i

end Sys2Proof.Machine
end

