-- ==== Sys2Proof/Safety.lean ====
section
/-! DEFINITION. The terms claims are stated in: the measures of a trace, the scripts of answers a line may give, the reference timed
environment, the renaming of causes, and the invariants of the machine. -/

namespace Sys2Proof.Machine

/-! ### Measures of a trace (rules R81, R87, R106, R137) -/

/-- The event is a `LineRead()`. -/
def Event.isRead : Event → Bool
  | .read _ => true
  | _ => false

/-- The event drives the line. -/
def Event.isDrive : Event → Bool
  | .drive _ _ => true
  | _ => false

/-- The event is a port event of the line or the time port, completions not counted (rule R138). -/
def Event.isPort : Event → Bool
  | .drive _ _ => true
  | .read _ => true
  | .delay _ => true
  | _ => false

/-- The time units an event delays. -/
def Event.units : Event → Nat
  | .delay n => n
  | _ => 0

/-- How many `LineRead()`s. -/
def readCount (es : List Event) : Nat := es.countP Event.isRead

/-- How many drives. -/
def driveCount (es : List Event) : Nat := es.countP Event.isDrive

/-- How many port events, completions not counted. -/
def portCount (es : List Event) : Nat := es.countP Event.isPort

/-- How many delays of exactly `n` units. -/
def delaysOf (n : Nat) (es : List Event) : Nat := es.countP (· == .delay n)

/-- The time units delayed. -/
def timeUnits (es : List Event) : Nat := (es.map Event.units).sum

/-! ### Scripts of line answers (spec/95_test_vectors.md section 0) -/

/-- A wait for `T` that finds it at check `k`: `k - 1` answers of the other level, then `T`. -/
def waitAnswers (T : Level) (k : Nat) : List LineAnswer := List.replicate (k - 1) (.level T.other) ++ [.level T]

/-- The events of an unsuccessful check and its delay (rule R78). -/
def missEvents (T : Level) : List Event := [.read (.level T.other), .delay 1, .delayDone]

/-- The events of that wait (rule R81): `k` reads and `k - 1` delays. -/
def waitEvents (T : Level) (k : Nat) : List Event :=
  (List.replicate (k - 1) (missEvents T)).flatten ++ [.read (.level T)]

/-- One bit of a line script: the check that finds the rise, the bit sampled, the check that finds the fall. -/
structure BitScript where
  rise : Nat
  bit : BitVec 1
  fall : Nat
deriving DecidableEq, Repr

/-- Both waits of the bit find their level within the budget of this hardware. -/
def BitScript.inBudget (x : BitScript) : Bool := 1 ≤ x.rise && x.rise ≤ 100 && 1 ≤ x.fall && x.fall ≤ 100

/-- The line's answers for one bit. -/
def BitScript.answers (x : BitScript) : List LineAnswer :=
  waitAnswers .high x.rise ++ [.level (Level.ofBit x.bit)] ++ waitAnswers .low x.fall

/-- The events of one bit read (rules R84 and R87). -/
def BitScript.events (x : BitScript) : List Event :=
  waitEvents .high x.rise ++ [.delay 35, .delayDone, .read (.level (Level.ofBit x.bit))] ++ waitEvents .low x.fall

/-- The checks the bit's two waits make. -/
def BitScript.checks (x : BitScript) : Nat := x.rise + x.fall

/-- The bits of a byte in read order, bit 7 first (rule R44). -/
def bitsOf (d : Byte) : List (BitVec 1) := (List.range 8).map fun i => d.extractLsb' (7 - i) 1

/-- A whole frame on the line: the handshake's two waits and 40 bits. -/
structure FrameScript where
  ackHigh : Nat
  ackLow : Nat
  bits : List BitScript
deriving DecidableEq, Repr

/-- Every wait of the frame finds its level within the budget. -/
def FrameScript.inBudget (f : FrameScript) : Bool :=
  1 ≤ f.ackHigh && f.ackHigh ≤ 100 && 1 ≤ f.ackLow && f.ackLow ≤ 100 && f.bits.all BitScript.inBudget

/-- The line's answers for the frame. -/
def FrameScript.answers (f : FrameScript) : List LineAnswer :=
  waitAnswers .high f.ackHigh ++ waitAnswers .low f.ackLow ++ (f.bits.map BitScript.answers).flatten

/-- `K`, the checks all the waits make (rule R106). -/
def FrameScript.checks (f : FrameScript) : Nat := f.ackHigh + f.ackLow + (f.bits.map BitScript.checks).sum

/-- The frame carries the payload `d` and the checksum `c`, in wire order (rules R43, R44, R60). -/
def FrameScript.carries (f : FrameScript) (d : Payload) (c : Byte) : Prop :=
  f.bits.map BitScript.bit = bitsOf d.b0 ++ bitsOf d.b1 ++ bitsOf d.b2 ++ bitsOf d.b3 ++ bitsOf c

/-! ### The reference timed environment (decision D12), for claims about time only -/

/-- Every read of the events answers the level `wave` has at its time: a read takes no time, `Delay(n)` takes exactly `n`. -/
def answersFrom (wave : Nat → Level) : Nat → List Event → Prop
  | _, [] => True
  | t, .read a :: es => a = .level (wave t) ∧ answersFrom wave t es
  | t, .delay n :: es => answersFrom wave (t + n) es
  | t, _ :: es => answersFrom wave t es

/-- A high pulse that rises at `rise` and lasts `len` units: high on the half-open interval `[rise, rise + len)`. -/
def pulse (rise len t : Nat) : Level := if rise ≤ t ∧ t < rise + len then .high else .low

/-! ### Renaming the causes of line errors (rule R109) -/

/-- The answer with its cause renamed. -/
def LineAnswer.rename (f : LineCause → LineCause) : LineAnswer → LineAnswer
  | .level l => .level l
  | .err c => .err (f c)

/-- The answer with its cause renamed. -/
def DriveAnswer.rename (f : LineCause → LineCause) : DriveAnswer → DriveAnswer
  | .ok => .ok
  | .err c => .err (f c)

/-- The event with its cause renamed. -/
def Event.rename (f : LineCause → LineCause) : Event → Event
  | .accept => .accept
  | .drive l r => .drive l (r.rename f)
  | .read r => .read (r.rename f)
  | .delay n => .delay n
  | .delayDone => .delayDone
  | .result st c d => .result st (c.map f) d
  | .abort => .abort

/-- The state with every cause in it renamed. -/
def State.rename (f : LineCause → LineCause) (s : State) : State :=
  { s with
    cause := s.cause.map f
    trace := s.trace.map (Event.rename f)
    line := s.line.map (LineAnswer.rename f)
    drive := s.drive.map (DriveAnswer.rename f) }

/-- The outcome with every cause in it renamed. -/
def renameOut (f : LineCause → LineCause) : Out → Out
  | .next s => .next (s.rename f)
  | .fault r => .fault r
  | .refused r => .refused r

/-! ### Invariants -/

/-- A turn of the hardware, not a harness word. -/
def Input.isTurn : Input → Bool
  | .turn _ => true
  | .harness _ => false

/-- The state is one of the hardware's: no harness word is waiting (rule R131: harness mode is no feature of the hardware). -/
def State.hardwareOnly (s : State) : Bool := s.inputs.all Input.isTurn

/-- The result registers as they are before a read has a result (rules R24, R55, R94). -/
def State.resultClear (s : State) : Prop :=
  s.resultValid = false ∧ s.status = 0 ∧ s.cause = none ∧ s.outData = Payload.zero

/-- The result registers and `PHASE` agree (rules R24, R69, R94, R128). -/
def State.resultInv (s : State) : Prop :=
  match s.phase with
  | .done => s.resultValid = true ∧ s.status = 0 ∧ s.cause = none
  | .failed =>
    s.resultValid = true ∧ s.status ≠ 0 ∧ (s.cause.isSome ↔ s.status = 1) ∧ s.outData = Payload.zero
  | _ => s.resultClear

/-- A wait's counters hold values in their ranges (rule R22); an owed delay follows a check. -/
def State.waitInv (s : State) : Prop :=
  ∃ cnt owed, s.pollCnt = some cnt ∧ s.pdly = some owed ∧ cnt.toNat ≤ Config.hw.budget ∧ (owed = true → 1 ≤ cnt.toNat)

/-- Every byte before `BYTE_IDX` has been written (rule R20). -/
def Frame.filledBelow (f : Frame) (j : BitVec 3) : Prop := ∀ i : BitVec 3, i < j → (f.read i).isSome

/-- What READ_BYTE keeps: the indices in range, `SHIFT < 2^BIT_IDX` (rule R89), the earlier bytes written. -/
def State.byteInv (s : State) : Prop :=
  ∃ j i sh, s.byteIdx = some j ∧ s.bitIdx = some i ∧ s.shift = some sh ∧ j ≤ 4 ∧ sh.toNat < 2 ^ i.toNat ∧
    s.frame.filledBelow j

/-- What the sequencer's position says of the registers (rules R21, R22, R23, R31, R99). -/
def State.positionInv (s : State) : Prop :=
  match s.phase with
  | .idle | .done | .failed => s.sub = 0 ∧ s.susp = false
  | .startPulse => s.sub ≤ 1 ∧ s.susp = false
  | .awaitAckHigh | .awaitAckLow => s.sub = 0 ∧ s.waitInv
  | .readByte =>
    s.byteInv ∧ (s.sub = 0 → s.waitInv) ∧ (s.sub = 1 → s.susp = false) ∧
      (s.sub = 3 → s.waitInv ∧ s.bit.isSome)
  | .validate => s.sub = 0 ∧ s.susp = false ∧ s.frame.filledBelow 5

/-- The invariant of the hardware's runs. -/
def State.Inv (s : State) : Prop := s.hardwareOnly = true ∧ s.positionInv ∧ s.resultInv

/-- A delay is outstanding during a read only, and while it is, its issue is the last event: no port operation overtakes it (rules R23,
R39 and R40). -/
def State.delayInv (s : State) : Prop :=
  (s.busy = false → s.susp = false) ∧ (s.susp = true → ∃ n, s.trace.getLast? = some (.delay n))

/-- Each drive in the trace drives the line high (rule R38). -/
def State.drivesHigh (s : State) : Prop := ∀ e ∈ s.trace, ∀ l r, e = .drive l r → l = .high

/-! ### Sequences of operations, moves and transitions -/

/-- The wait for a level. -/
def pollOf : Level → Instr
  | .high => .pollHigh
  | .low => .pollLow

/-- Operations run one after the other; an operation is turned away once a failure has ended the read (rule R112). -/
def execAll : List Instr → State → Out
  | [], s => .next s
  | i :: is, s =>
    match exec i s with
    | .next t => execAll is t
    | .fault f => .fault f
    | .refused r => .refused r

/-- The expansion of READ_FRAME after its acceptance (rule R73). -/
def readFrameSequence : List Instr :=
  [.driveHigh, .delay 48, .pollHigh, .pollLow, .readByte 0, .readByte 1, .readByte 2, .readByte 3, .readByte 4, .validate]

/-- An outcome with `BYTE_IDX` left out: the sequencer writes it (rule R101), `READ_BYTE s` on its own does not (rule R88). -/
def withoutByteIdx : Out → Out
  | .next s => .next { s with byteIdx := none }
  | .fault f => .fault f
  | .refused r => .refused r

/-- The state with more events recorded before its own. -/
def State.withHistory (p : List Event) (s : State) : State := { s with trace := p ++ s.trace }

/-- The outcome with more events recorded before its own. -/
def historyOut (p : List Event) : Out → Out
  | .next s => .next (s.withHistory p)
  | .fault f => .fault f
  | .refused r => .refused r

/-- A turn in which one agent moves and reset is not asserted. -/
def moveTurn (m : Move) : Input := .turn { reset := false, move := m }

/-- The inputs of a read that nothing disturbs: the host's `READ_FRAME`, then the time source's turn and the block's, `n` times. -/
def readSchedule (n : Nat) : List Input :=
  moveTurn (.host 0x8000) :: (List.replicate n [moveTurn .timeSource, moveTurn .block]).flatten

/-- The transitions of rule R97 from one phase to another. -/
def Phase.mayGo : Phase → Phase → Bool
  | .idle, q => q = .startPulse
  | .done, q => q = .startPulse || q = .idle
  | .failed, q => q = .startPulse || q = .idle
  | .startPulse, q => q = .awaitAckHigh || q = .idle
  | .awaitAckHigh, q => q = .awaitAckLow || q = .failed || q = .idle
  | .awaitAckLow, q => q = .readByte || q = .failed || q = .idle
  | .readByte, q => q = .validate || q = .failed || q = .idle
  | .validate, q => q = .done || q = .failed || q = .idle

/-- The value of bits read most significant first. -/
def bitsValue (bs : List (BitVec 1)) : Nat := bs.foldl (fun acc b => 2 * acc + b.toNat) 0

/-- The payload, and the checksum, with one of the frame's 40 bits flipped: bit `i` of byte `k`, byte 4 the checksum. -/
def flipBit (k : Nat) (i : Nat) (d : Payload) (c : Byte) : Payload × Byte :=
  match k with
  | 0 => ({ d with b0 := d.b0 ^^^ (1#8 <<< i) }, c)
  | 1 => ({ d with b1 := d.b1 ^^^ (1#8 <<< i) }, c)
  | 2 => ({ d with b2 := d.b2 ^^^ (1#8 <<< i) }, c)
  | 3 => ({ d with b3 := d.b3 ^^^ (1#8 <<< i) }, c)
  | _ => (d, c ^^^ (1#8 <<< i))

end Sys2Proof.Machine
end

