-- ==== Sys2Proof/Certificates/Slice0/Obligations.lean ====
section
/-! DEFINITION. The statements for the provers, each formalising rules of spec/ (OBLIGATIONS.json holds their texts). -/

open Sys2Proof Sys2Proof.Machine

/-- Decoding the word of any well-formed operation gives that operation back (30_encoding.md section 2 (R62, R63); 30_encoding.md
section 3 (R64, R65, R66)).

For every operation i whose operand the opcode map gives (DELAY n with n not 0, READ_BYTE s with s at most 4, every other
operation), the decoder reads encode i as i: no operand bit is dropped. -/
def Obligations.DecodeOfEncodeIsTheInstruction : Prop :=
  ∀ i : Instr, i.wf = true → decode (encode i) = .ok i

/-- The opcode map of R63, word by word: what each word decodes to, and no other word decodes (30_encoding.md section 2 (R63)).

A word w decodes to an operation i exactly when w and i stand in a row of the opcode map: 0x1000 DRIVE_HIGH, 0x2000 READ_LEVEL,
0x3000 + n DELAY n for n in 1..4095, 0x4000 POLL_LOW, 0x4001 POLL_HIGH, 0x5000 SAMPLE_BIT, 0x6000 + s READ_BYTE s for s in 0..4,
0x7000 VALIDATE, 0x8000 READ_FRAME, 0x9000 ABORT. Every other word is reserved: it decodes to none. -/
def Obligations.OpcodeMapIsExact : Prop :=
  ∀ (w : Word) (i : Instr), decode w = .ok i ↔
    (w = 0x1000 ∧ i = .driveHigh) ∨ (w = 0x2000 ∧ i = .readLevel) ∨
    (∃ n : BitVec 12, n ≠ 0 ∧ w.toNat = 0x3000 + n.toNat ∧ i = .delay n) ∨
    (w = 0x4000 ∧ i = .pollLow) ∨ (w = 0x4001 ∧ i = .pollHigh) ∨ (w = 0x5000 ∧ i = .sampleBit) ∨
    (∃ slot : BitVec 3, slot ≤ 4 ∧ w.toNat = 0x6000 + slot.toNat ∧ i = .readByte slot) ∨
    (w = 0x7000 ∧ i = .validate) ∨ (w = 0x8000 ∧ i = .readFrame) ∨ (w = 0x9000 ∧ i = .abort)

/-- Each reserved word is refused under its own name, by the decoder and in harness mode, and ignored at the host port
(30_encoding.md section 4 (R67); 92_eei_decisions.md D6; 93_implementation_defined.md I6).

op 0x0 or 0xA..0xF: opcode. 0x3000: delayZero. An operation without operand whose arg is not 0: argNotZero. 0x4002..0x4FFF:
pollArg. 0x6005..0x6FFF: slot. A word the decoder refuses is refused by the harness under that name, and written to the host
port it changes nothing. -/
def Obligations.ReservedWordsAreRefusedByName : Prop :=
  (∀ w : Word, (opOf w = 0x0 ∨ 0xA ≤ opOf w) → decode w = .error .opcode) ∧
  decode 0x3000 = .error .delayZero ∧
  (∀ w : Word, (opOf w = 0x1 ∨ opOf w = 0x2 ∨ opOf w = 0x5 ∨ opOf w = 0x7 ∨ opOf w = 0x8 ∨ opOf w = 0x9) → argOf w ≠ 0 →
    decode w = .error .argNotZero) ∧
  (∀ w : Word, 0x4002 ≤ w → w ≤ 0x4FFF → decode w = .error .pollArg) ∧
  (∀ w : Word, 0x6005 ≤ w → w ≤ 0x6FFF → decode w = .error .slot) ∧
  (∀ (w : Word) (r : Reserved) (s : State), decode w = .error r →
    harnessRun w s = .refused (.reservedWord r) ∧ hostWrite w s = .next s)

/-- The words of the spec's decoding table decode as listed there (95_test_vectors.md section 2.6, table of decoding of words).

Sanity: 0x1000, 0x2000, 0x3001, 0x3023, 0x3030, 0x3FFF, 0x4000, 0x4001, 0x5000, 0x6000, 0x6004, 0x7000, 0x8000, 0x9000 decode to
the operations 95_test_vectors.md lists for them, and 0x3000, 0x4002, 0x5001, 0x6005, 0x8001, 0x0000, 0xA000, 0xFFFF are
refused. -/
def Obligations.SpecWordsDecodeAsListed : Prop :=
  ([0x1000, 0x2000, 0x3001, 0x3023, 0x3030, 0x3FFF, 0x4000, 0x4001, 0x5000, 0x6000, 0x6004, 0x7000, 0x8000, 0x9000].map
    (decodeTableWord 16)) =
  [some .driveHigh, some .readLevel, some (.delay 1), some (.delay 35), some (.delay 48), some (.delay 4095), some .pollLow,
    some .pollHigh, some .sampleBit, some (.readByte 0), some (.readByte 4), some .validate, some .readFrame, some .abort] ∧
  ([0x3000, 0x4002, 0x5001, 0x6005, 0x8001, 0x0000, 0xA000, 0xFFFF].all fun w => (decodeTableWord 16 w).isNone) = true

/-- Assembling the text of any well-formed operation gives that operation; a line of blanks, with a comment or without, gives none
(30_encoding.md section 6 (R72); 92_eei_decisions.md D16).

The assembler of R72 reads the text of a well-formed operation (capitals, the operand in decimal or in hexadecimal with 0x) back
as that operation, whatever blanks stand before it, between mnemonic and operand and after it, with any comment after them or
none; a line of blanks, or of blanks and a comment, is no operation. Which characters are blanks and the digits the model writes
are its choice (log entry 23). -/
def Obligations.AssembledTextIsTheInstruction : Prop :=
  (∀ (i : Instr) (num : BitVec 12 → List Char) (pre gap post comment : List Char), i.wf = true →
    (num = operandText ∨ num = decimalText) → pre.all isBlank = true → gap.all isBlank = true → gap ≠ [] →
    post.all isBlank = true →
    assembleLine (pre ++ asmTextWith gap num i ++ post) = .ok (some i) ∧
    assembleLine (pre ++ asmTextWith gap num i ++ post ++ ';' :: comment) = .ok (some i)) ∧
  (∀ pre comment : List Char, pre.all isBlank = true →
    assembleLine pre = .ok none ∧ assembleLine (pre ++ ';' :: comment) = .ok none)

/-- A step whose next input is a harness word runs exactly the operation the word decodes to (70_reset_and_hazards.md section 2
(R131); 30_encoding.md section 2 (R62); 92_eei_decisions.md D29).

When the next input is a harness word that decodes to i, and no two agents use the line at once, step is exec of i on the state
with that input taken off. The harness is the model's own (log entries 9 and 17). R131 gives it the internal words (op 0x1 to
0x7) only; that READ_FRAME and ABORT given there run too, as at the host port, is the model's choice (log entry 27). -/
def Obligations.StepRunsTheHarnessWord : Prop :=
  ∀ (s : State) (w : Word) (i : Instr) (rest : List Input), s.inputs = .harness w :: rest → decode w = .ok i →
    s.lineConflict = false → step s = exec i { s with inputs := rest }

/-- A step in which the host writes a command word runs exactly that command (30_encoding.md section 5 (R68); 45_sequencer.md
section 1 (R98)).

When the next input is a turn without reset in which the host writes a word that decodes to READ_FRAME or ABORT, and no two
agents use the line at once, step is exec of that command on the state with the input taken off. -/
def Obligations.StepRunsTheHostCommand : Prop :=
  ∀ (s : State) (w : Word) (i : Instr) (rest : List Input), s.inputs = moveTurn (.host w) :: rest → decode w = .ok i →
    i.isHostCommand = true → s.lineConflict = false → step s = exec i { s with inputs := rest }

/-- At the host port 0x8000 and 0x9000 are commands; every other word is not accepted and changes nothing (R68).

For every word w the host writes in a turn without reset (and no shared line): step is exec READ_FRAME for 0x8000, exec ABORT
for 0x9000, and for every other word, the internal words and the reserved ones, the state unchanged but for the input taken. -/
def Obligations.HostPortTakesTwoWordsOnly : Prop :=
  ∀ (s : State) (w : Word) (rest : List Input), s.inputs = moveTurn (.host w) :: rest → s.lineConflict = false →
    step s =
      if w = 0x8000 then exec .readFrame { s with inputs := rest }
      else if w = 0x9000 then exec .abort { s with inputs := rest }
      else .next { s with inputs := rest }

/-- A block turn runs the block's step of R99 when BUSY = 1 and SUSP = 0, and nothing otherwise (45_sequencer.md section 1 (R98,
R99); 10_state.md section 3 (R23)).

When the next input is the block's turn without reset and the line is not shared: if the block is enabled, step is the block
step at the sequencer's position on the state with the input taken; if it is idle or suspended, the state is unchanged but for
the input taken. -/
def Obligations.BlockTurnRunsTheBlockStep : Prop :=
  ∀ (s : State) (rest : List Input), s.inputs = moveTurn .block :: rest → s.lineConflict = false →
    step s =
      if s.busy = true ∧ s.susp = false then blockStep Config.hw { s with inputs := rest }
      else .next { s with inputs := rest }

/-- The time source's turn clears SUSP with one DelayDone event; with no delay outstanding its completion is dropped
(45_sequencer.md section 1 (R98); 70_reset_and_hazards.md section 1 (R127)).

When the next input is the time source's turn without reset and the line is not shared: if SUSP = 1, SUSP becomes 0 and
DelayDone is recorded, nothing else changes; if SUSP = 0, nothing changes. Dropping the late completion without an event is the
model's reading (log entry 14). -/
def Obligations.TimeSourceCompletesTheDelay : Prop :=
  ∀ (s : State) (rest : List Input), s.inputs = moveTurn .timeSource :: rest → s.lineConflict = false →
    step s =
      if s.susp = true then .next { s with inputs := rest, susp := false, trace := s.trace ++ [.delayDone] }
      else .next { s with inputs := rest }

/-- A reset is taken whatever the block is doing and whatever else would move, with the effect of R127 (70_reset_and_hazards.md
section 1 (R127); 60_exceptions.md section 3 (R117); 10_state.md section 7 (R32)).

When the next input is a turn with reset asserted, whatever its move, step answers: PHASE IDLE, SUB 0, SUSP 0, RESULT_VALID 0,
STATUS 0, CAUSE none, OUT_DATA zero, every counter and datapath register without a value; no event of a port, the line and the
environment left alone. A completion of the abandoned delay that comes next changes nothing more, a block turn that comes next
makes no step, and the block goes on from there by accepting a READ_FRAME. That the trace is kept and that the move presented
with the reset is lost are the model's choices (log entries 13 and 22). -/
def Obligations.ResetTurnResetsTheBlock : Prop :=
  ∀ (s : State) (m : Move) (rest : List Input), s.inputs = .turn { reset := true, move := m } :: rest →
    ∃ t, step s = .next t ∧
      t = { s with
        phase := .idle, sub := 0, susp := false, resultValid := false, status := 0, cause := none, outData := Payload.zero,
        byteIdx := none, bitIdx := none, pollCnt := none, pdly := none, shift := none, bit := none,
        frame := Frame.empty, inputs := rest } ∧
      (∀ m' ∈ [Move.timeSource, Move.block], step { t with inputs := moveTurn m' :: rest } = .next t) ∧
      step { t with inputs := moveTurn (.host 0x8000) :: rest } = .next t.accept

/-- The state after reset holds the values of R32 (R32).

PHASE IDLE (code 0), SUB 0, SUSP 0, the counters and datapath registers without a value, RESULT_VALID 0, STATUS 0, CAUSE none,
OUT_DATA 0x00 each. -/
def Obligations.ResetStateIsAsTheSpecSays : Prop :=
  State.reset.phase.code = 0 ∧ State.reset.sub = 0 ∧ State.reset.susp = false ∧
  State.reset.byteIdx = none ∧ State.reset.bitIdx = none ∧ State.reset.pollCnt = none ∧ State.reset.pdly = none ∧
  State.reset.shift = none ∧ State.reset.bit = none ∧
  State.reset.frame = { d0 := none, d1 := none, d2 := none, d3 := none, csum := none } ∧
  State.reset.resultValid = false ∧ State.reset.status = 0 ∧ State.reset.cause = none ∧
  State.reset.outData = { b0 := 0x00, b1 := 0x00, b2 := 0x00, b3 := 0x00 }

/-- While another agent uses the line during a read, every step but a reset is refused by name (70_reset_and_hazards.md section 3
(R133); 60_exceptions.md section 5 (R123); 93_implementation_defined.md I7).

If a read is in progress and the line is shared, a step whose input is not a reset turn answers the refusal lineShared. How the
second user is told to the model is the model's choice (log entry 15). -/
def Obligations.SharedLineIsRefused : Prop :=
  ∀ s : State, s.busy = true → s.lineShared = true → (∀ m, s.nextInput ≠ .turn { reset := true, move := m }) →
    step s = .refused .lineShared

/-- DRIVE_HIGH makes one Drive(High) event, writes no register, and goes on the same for Ok and Err(c) (40_line_ops.md (R74);
90_conflicts.md C3).

From every state with BUSY = 1 and SUSP = 0, exec DRIVE_HIGH answers the state with one event Drive(High) -> r added and the
drive's answer used up; no register is written, for any answer: two answers give states that differ in the trace alone. -/
def Obligations.DriveHighAsksTheLineOnce : Prop :=
  ∀ s : State, s.busy = true → s.susp = false →
    exec .driveHigh s = .next { s with
      drive := s.drive.tail, draws := if s.drive = [] then s.draws + 1 else s.draws,
      trace := s.trace ++ [.drive .high s.driveAnswer] } ∧
    (∀ (a b : DriveAnswer) (rest : List DriveAnswer), ∃ t u,
      exec .driveHigh { s with drive := a :: rest } = .next t ∧ exec .driveHigh { s with drive := b :: rest } = .next u ∧
      t.trace = s.trace ++ [.drive .high a] ∧ u.trace = s.trace ++ [.drive .high b] ∧ { t with trace := u.trace } = u)

/-- READ_LEVEL makes one LineRead(): the level goes into BIT, an error raises LineError(c) and leaves BIT alone (R75).

The word 0x2000. From every state with BUSY = 1 and SUSP = 0: on the answer High BIT becomes 1, on Low 0, with one Read event
and nothing else changed; on Err(c) the read fails with STATUS 1 and CAUSE c by the failure entry, BIT unchanged, one Read event
and then the Result. -/
def Obligations.ReadLevelSamplesOnce : Prop :=
  encode .readLevel = 0x2000 ∧ ∀ s : State, s.busy = true → s.susp = false →
    (s.lineAnswer = .level .high →
      exec .readLevel s = .next { s with
        bit := some 1, line := s.line.tail, draws := if s.line = [] then s.draws + 1 else s.draws,
        trace := s.trace ++ [.read (.level .high)] }) ∧
    (s.lineAnswer = .level .low →
      exec .readLevel s = .next { s with
        bit := some 0, line := s.line.tail, draws := if s.line = [] then s.draws + 1 else s.draws,
        trace := s.trace ++ [.read (.level .low)] }) ∧
    (∀ c, s.lineAnswer = .err c →
      exec .readLevel s = .next { s with
        phase := .failed, sub := 0, status := 1, cause := some c, outData := Payload.zero, resultValid := true,
        line := s.line.tail, draws := if s.line = [] then s.draws + 1 else s.draws,
        trace := s.trace ++ [.read (.err c), .result 1 (some c) Payload.zero] })

/-- DELAY n issues one Delay(n), is completed, and changes no register (40_line_ops.md (R76); 30_encoding.md section 3 (R64);
95_test_vectors.md section 2.1, X6 and X7).

From every state with BUSY = 1 and SUSP = 0 and for every n in 1..4095, exec DELAY n answers the state with the events Delay(n)
and DelayDone added; SUSP is 0 again, no register is changed. That the time source completes the delay within the operation is
the model's harness (log entry 9). -/
def Obligations.DelaySuspendsForItsCount : Prop :=
  ∀ (s : State) (n : BitVec 12), s.busy = true → s.susp = false → n ≠ 0 →
    exec (.delay n) s = .next { s with trace := s.trace ++ [.delay n.toNat, .delayDone] }

/-- POLL_HIGH and POLL_LOW succeed at the first check that shows their level: k reads, k - 1 delays, POLL_CNT = k
(41_timeout_poller.md (R78, R79, R80, R81, R83)).

For each target level T and every k in 1..100: from a state with BUSY = 1 and SUSP = 0 whose line answers the other level k - 1
times and then T, exec of the wait for T answers the state with POLL_CNT = k, PDLY = 0, those answers used up and the events k
reads with Delay(1), DelayDone between them added; nothing else changes. The operation runs as a whole, its delays completed
within it (log entry 9). -/
def Obligations.PollFindsItsLevelAtCheckK : Prop :=
  ∀ (T : Level) (k : Nat) (s : State) (rest : List LineAnswer), s.busy = true → s.susp = false → 1 ≤ k → k ≤ 100 →
    s.line = waitAnswers T k ++ rest →
    exec (pollOf T) s = .next { s with
      pollCnt := some (BitVec.ofNat 7 k), pdly := some false, line := rest, trace := s.trace ++ waitEvents T k }

/-- A check that answers Err(c) raises LineError(c), also at the last check of the budget, with no delay after it (R82).

For each target level T and every k in 1..100: from a state with BUSY = 1 and SUSP = 0 whose line answers the other level k - 1
times and then Err(c), exec of the wait fails with STATUS 1 and CAUSE c: k reads, k - 1 delays, the Result event, no delay after
the error; the datapath registers are unchanged. -/
def Obligations.PollRaisesALineErrorAtOnce : Prop :=
  ∀ (T : Level) (k : Nat) (c : LineCause) (s : State) (rest : List LineAnswer), s.busy = true → s.susp = false → 1 ≤ k →
    k ≤ 100 → s.line = List.replicate (k - 1) (.level T.other) ++ .err c :: rest →
    exec (pollOf T) s = .next { s with
      phase := .failed, sub := 0, status := 1, cause := some c, outData := Payload.zero, resultValid := true,
      pollCnt := some (BitVec.ofNat 7 k), pdly := some false, line := rest,
      trace := s.trace ++ (List.replicate (k - 1) (missEvents T)).flatten ++
        [.read (.err c), .result 1 (some c) Payload.zero] }

/-- A wait whose budget of checks never shows its level fails with Timeout, with or without the trailing delay (41_timeout_poller.md
(R78, R81); 60_exceptions.md section 1 (R110); 00_scope.md section 3 (R7, R8); 92_eei_decisions.md D3).

For every budget B in 1..127, either value of POLL_DELAY_AFTER_LAST_CHECK and each target level: if the line answers the other
level B times, the wait fails with STATUS 2 and no cause after exactly B reads; it has made B delays of 1 unit if the parameter
is true and B - 1 if it is false. With this hardware's B = 100 and true, exec of the wait does so. The budget's upper bound 127
is what the 7 bits of POLL_CNT can count (log entry 16). -/
def Obligations.PollTimesOutAfterTheBudget : Prop :=
  (∀ (P : Config.Params) (T : Level) (s : State) (rest : List LineAnswer), P.wf = true → s.susp = false →
    s.line = List.replicate P.budget (.level T.other) ++ rest →
    poll P T s = .failed { s with
      phase := .failed, sub := 0, status := 2, cause := none, outData := Payload.zero, resultValid := true,
      pollCnt := some (BitVec.ofNat 7 P.budget), pdly := some false, line := rest,
      trace := s.trace ++ (List.replicate (P.budget - 1) (missEvents T)).flatten ++
        (if P.delayAfterLast then missEvents T else [.read (.level T.other)]) ++ [.result 2 none Payload.zero] }) ∧
  (∀ (T : Level) (s : State) (rest : List LineAnswer), s.busy = true → s.susp = false →
    s.line = List.replicate 100 (.level T.other) ++ rest →
    exec (pollOf T) s = .next { s with
      phase := .failed, sub := 0, status := 2, cause := none, outData := Payload.zero, resultValid := true,
      pollCnt := some 100, pdly := some false, line := rest,
      trace := s.trace ++ (List.replicate 100 (missEvents T)).flatten ++ [.result 2 none Payload.zero] })

/-- Event counts of one wait, whatever the line answers: the table of R81 (41_timeout_poller.md (R78, R81); 00_scope.md section 3
(R8)).

For every budget B in 1..127 and either value of the parameter, for every state and whatever its line answers: the wait makes
some k reads, 1 <= k <= B. If it succeeds, or fails with a line error, it makes k - 1 delays of 1 unit and delays k - 1 units;
if it times out, k = B and it makes B delays and B units with the parameter true, B - 1 with it false. There is no fourth
outcome. The table is the spec's own inference (R81: derived from rule R78). -/
def Obligations.WaitCountsAreThoseOfTheTable : Prop :=
  ∀ (P : Config.Params) (T : Level) (s : State), P.wf = true →
    ∃ (k : Nat) (es : List Event), 1 ≤ k ∧ k ≤ P.budget ∧ (poll P T s).state.trace = s.trace ++ es ∧ readCount es = k ∧
      match poll P T s with
      | .ok _ t => t.phase = s.phase ∧ delaysOf 1 es = k - 1 ∧ timeUnits es = k - 1
      | .failed t =>
        t.phase = .failed ∧
        ((t.status = 1 ∧ delaysOf 1 es = k - 1 ∧ timeUnits es = k - 1) ∨
         (t.status = 2 ∧ k = P.budget ∧ delaysOf 1 es = (if P.delayAfterLast then P.budget else P.budget - 1) ∧
          timeUnits es = (if P.delayAfterLast then P.budget else P.budget - 1)))

/-- What POLL_HIGH and POLL_LOW leave unchanged, whatever the line answers (41_timeout_poller.md (R78, R79, R80); 10_state.md
section 8 (R33); 60_exceptions.md section 2 (R113)).

Whenever exec of POLL_HIGH or POLL_LOW answers a next state t: BYTE_IDX, BIT_IDX, SHIFT, BIT, the frame buffer, SUSP, the inputs
and the drive's answers are unchanged, the trace is only added to; and either PHASE, SUB and the result registers are unchanged
too, or the read has failed and they are those of the failure entry with status 1 or 2. The operation runs as a whole, its
delays completed within it (log entry 9); given while BUSY = 0 or SUSP = 1 it is turned away and nothing changes (log entry 11). -/
def Obligations.PollFrame : Prop :=
  ∀ (T : Level) (s t : State), exec (pollOf T) s = .next t →
    t.byteIdx = s.byteIdx ∧ t.bitIdx = s.bitIdx ∧ t.shift = s.shift ∧ t.bit = s.bit ∧ t.frame = s.frame ∧ t.susp = s.susp ∧
    t.inputs = s.inputs ∧ t.drive = s.drive ∧ t.lineShared = s.lineShared ∧ (∃ es, t.trace = s.trace ++ es) ∧
    ((t.phase = s.phase ∧ t.sub = s.sub ∧ t.resultValid = s.resultValid ∧ t.status = s.status ∧ t.cause = s.cause ∧
        t.outData = s.outData) ∨
     (t.phase = .failed ∧ t.sub = 0 ∧ t.resultValid = true ∧ t.outData = Payload.zero ∧
        ((∃ c, t.status = 1 ∧ t.cause = some c) ∨ (t.status = 2 ∧ t.cause = none))))

/-- SAMPLE_BIT returns the level of its one sample, with the events of R84 in order (42_bit_sampler.md (R84, R85, R86, R87)).

From a state with BUSY = 1 and SUSP = 0, for every bit b and every kr, kf in 1..100: if the line answers a wait for High found
at check kr, the level of b, and a wait for Low found at check kf, exec SAMPLE_BIT answers the state with BIT = b, POLL_CNT =
kf, PDLY = 0, the answers used up and the events added: the rise wait, Delay(35), DelayDone, the sample, the fall wait; kr + 1 +
kf reads. Nothing else changes. The operation runs as a whole, its delays completed within it (log entry 9). -/
def Obligations.SampleBitReadsTheLevelAtTheSample : Prop :=
  ∀ (x : BitScript) (s : State) (rest : List LineAnswer), s.busy = true → s.susp = false → x.inBudget = true →
    s.line = x.answers ++ rest →
    exec .sampleBit s = .next { s with
      bit := some x.bit, pollCnt := some (BitVec.ofNat 7 x.fall), pdly := some false, line := rest,
      trace := s.trace ++ x.events } ∧
    readCount x.events = x.rise + 1 + x.fall ∧ delaysOf 35 x.events = 1 ∧
    delaysOf 1 x.events = (x.rise - 1) + (x.fall - 1)

/-- SAMPLE_BIT is POLL_HIGH ; DELAY 35 ; READ_LEVEL ; POLL_LOW, in every state and whatever the line answers (42_bit_sampler.md
(R84); 30_encoding.md section 6 (R73); 60_exceptions.md section 2 (R112)).

The word 0x5000. For every state, exec SAMPLE_BIT answers exactly what the four operations run one after the other answer: the
same registers, the same trace, and any failure of a sub-step ends the bit read with that failure, unchanged (the operations
after it find BUSY = 0 and do nothing). That each operation runs as a whole, and that one given while BUSY = 0 or SUSP = 1 is
turned away, are the model's readings (log entries 9 and 11). -/
def Obligations.SampleBitIsItsExpansion : Prop :=
  encode .sampleBit = 0x5000 ∧
  ∀ s : State, exec .sampleBit s = execAll [.pollHigh, .delay 35, .readLevel, .pollLow] s

/-- What SAMPLE_BIT leaves unchanged, whatever the line answers (42_bit_sampler.md (R84); 10_state.md section 8 (R33)).

Whenever exec SAMPLE_BIT answers a next state t: BYTE_IDX, BIT_IDX, SHIFT, the frame buffer, SUSP, the inputs and the drive's
answers are unchanged and the trace is only added to; either PHASE, SUB and the result registers are unchanged, or the read has
failed with status 1 or 2 and no data. The operation runs as a whole, its delays completed within it (log entry 9); given while
BUSY = 0 or SUSP = 1 it is turned away and nothing changes (log entry 11). -/
def Obligations.SampleBitFrame : Prop :=
  ∀ s t : State, exec .sampleBit s = .next t →
    t.byteIdx = s.byteIdx ∧ t.bitIdx = s.bitIdx ∧ t.shift = s.shift ∧ t.frame = s.frame ∧ t.susp = s.susp ∧
    t.inputs = s.inputs ∧ t.drive = s.drive ∧ t.lineShared = s.lineShared ∧ (∃ es, t.trace = s.trace ++ es) ∧
    ((t.phase = s.phase ∧ t.sub = s.sub ∧ t.resultValid = s.resultValid ∧ t.status = s.status ∧ t.cause = s.cause ∧
        t.outData = s.outData) ∨
     (t.phase = .failed ∧ t.sub = 0 ∧ t.resultValid = true ∧ t.outData = Payload.zero ∧
        ((∃ c, t.status = 1 ∧ t.cause = some c) ∨ (t.status = 2 ∧ t.cause = none))))

/-- In the reference timed environment a high pulse longer than 35 units reads as 1 and any other as 0 (42_bit_sampler.md (R86);
92_eei_decisions.md D12; 95_test_vectors.md section 2.3, T4 to T8).

From a state with BUSY = 1 and SUSP = 0: if every answer of a SAMPLE_BIT is the level, at its time, of a line whose one high
pulse rises at a time in 0..99 and lasts len units, 1 <= len <= 134, then the bit read succeeds and BIT is 1 exactly when len >
35: 35 gives 0, 36 gives 1. The environment is the spec's decision D12, not a rule of the block (log entry 26). -/
def Obligations.PulseLongerThanTheSampleDelayIsAOne : Prop :=
  ∀ (rise len : Nat) (s t : State) (es : List Event), s.busy = true → s.susp = false → rise ≤ 99 → 1 ≤ len → len ≤ 134 →
    exec .sampleBit s = .next t → t.trace = s.trace ++ es → answersFrom (pulse rise len) 0 es →
    t.phase = s.phase ∧ t.bit = some (if 35 < len then 1 else 0)

/-- The fold law: the bits of a byte in read order are its bits 7 down to 0, and SHIFT stays below 2^j after j folds
(43_byte_assembler.md (R88, R89)).

For any list of at most 8 bits, folding them from 0x00 gives the number they spell most significant bit first, below 2 to the
power of their count, so bit 7 of SHIFT is 0 before each of the eight folds; for 8 bits b0..b7, bit 7 - i of the byte is b_i.
The fold law is the spec's own inference (R89: derived from rule R88). -/
def Obligations.FoldIsMostSignificantBitFirst : Prop :=
  (∀ bs : List (BitVec 1), bs.length ≤ 8 →
    (bs.foldl foldBit 0).toNat = bitsValue bs ∧ (bs.foldl foldBit 0).toNat < 2 ^ bs.length ∧
    (bs.length < 8 → (bs.foldl foldBit 0).getLsbD 7 = false)) ∧
  (∀ bs : List (BitVec 1), bs.length = 8 → ∀ i, ∀ h : i < bs.length, (bs.foldl foldBit 0).extractLsb' (7 - i) 1 = bs[i])

/-- READ_BYTE s reads eight bits, most significant first, into SHIFT and frame[s] (43_byte_assembler.md (R88, R89); 20_memory.md
section 2 (R44)).

From a state with BUSY = 1 and SUSP = 0, for every byte d, every slot s in 0..4 and any eight bit scripts within the budget that
carry the bits of d in read order: exec READ_BYTE s answers the state with SHIFT = d, frame[s] = d, BIT_IDX = 7, BIT = bit 0 of
d, POLL_CNT the checks of the last fall wait, PDLY = 0, the answers used up and the events of the eight bit reads added. Nothing
else changes. The operation runs as a whole, its delays completed within it, and does not write BYTE_IDX (log entries 9 and 10). -/
def Obligations.ReadByteAssemblesTheByte : Prop :=
  ∀ (d : Byte) (slot : BitVec 3) (xs : List BitScript) (s : State) (rest : List LineAnswer), s.busy = true → s.susp = false →
    slot ≤ 4 → xs.all BitScript.inBudget = true → xs.map BitScript.bit = bitsOf d →
    s.line = (xs.map BitScript.answers).flatten ++ rest →
    exec (.readByte slot) s = .next { s with
      shift := some d, frame := s.frame.write slot d, bitIdx := some 7, bit := some (d.extractLsb' 0 1),
      pollCnt := xs.getLast?.map (fun x => BitVec.ofNat 7 x.fall), pdly := some false, line := rest,
      trace := s.trace ++ (xs.map BitScript.events).flatten }

/-- A byte read is all or nothing: after a failure no frame-buffer byte is written and no port event follows the failing one (R90).

For every state with BUSY = 1 and SUSP = 0, every slot in 0..4 and whatever the line answers: if exec READ_BYTE ends in a failed
read, the frame buffer is unchanged, BIT_IDX names the bit that failed, and the events added end with the failing one and then
the Result: Read -> Err(c) with status 1, or the unsuccessful check with its Delay(1) and DelayDone with status 2; the events
before it are those of the bits before it, all read in full, and of the failing bit so far, with at most one Delay(35) and with
no Read -> Err(c): the failing event is the first error. The operation runs as a whole, its delays completed within it (log
entry 9). -/
def Obligations.ReadByteFailsFast : Prop :=
  ∀ (slot : BitVec 3) (s t : State), s.busy = true → s.susp = false → slot ≤ 4 → exec (.readByte slot) s = .next t →
    t.busy = false →
    t.frame = s.frame ∧
    ∃ (i : BitVec 3) (xs : List BitScript) (es last : List Event), t.bitIdx = some i ∧ xs.length = i.toNat ∧
      xs.all BitScript.inBudget = true ∧
      t.trace = s.trace ++ (xs.map BitScript.events).flatten ++ es ++ last ∧ delaysOf 35 es ≤ 1 ∧
      (∀ c, Event.read (.err c) ∉ es) ∧
      ((∃ c, t.status = 1 ∧ t.cause = some c ∧ last = [.read (.err c), .result 1 (some c) Payload.zero]) ∨
       (∃ T, t.status = 2 ∧ t.cause = none ∧ last = missEvents T ++ [.result 2 none Payload.zero]))

/-- What READ_BYTE leaves unchanged, whatever the line answers (43_byte_assembler.md (R88); 10_state.md section 8 (R33)).

Whenever exec READ_BYTE s answers a next state t: BYTE_IDX, SUSP, the inputs and the drive's answers are unchanged and the trace
is only added to; the frame buffer is unchanged, or changed in slot s alone, which then holds SHIFT; either PHASE, SUB and the
result registers are unchanged, or the read has failed with status 1 or 2, no data and the whole frame buffer unchanged. Given
while BUSY = 0 or SUSP = 1 it is turned away and the state is unchanged. That it is turned away, that it runs as a whole with
its delays completed within it, and that BYTE_IDX is unchanged are the model's readings (log entries 11, 9 and 10). -/
def Obligations.ReadByteFrame : Prop :=
  ∀ (slot : BitVec 3) (s t : State), exec (.readByte slot) s = .next t →
    t.byteIdx = s.byteIdx ∧ t.susp = s.susp ∧ t.inputs = s.inputs ∧ t.drive = s.drive ∧ t.lineShared = s.lineShared ∧
    (∃ es, t.trace = s.trace ++ es) ∧
    ((t.phase = s.phase ∧ t.sub = s.sub ∧ t.resultValid = s.resultValid ∧ t.status = s.status ∧ t.cause = s.cause ∧
        t.outData = s.outData ∧ (∀ j, j ≠ slot → t.frame.read j = s.frame.read j) ∧
        (s.blockEnabled = true → t.shift.isSome = true ∧ t.frame.read slot = t.shift) ∧ (s.blockEnabled = false → t = s)) ∨
     (t.phase = .failed ∧ t.sub = 0 ∧ t.resultValid = true ∧ t.outData = Payload.zero ∧ t.frame = s.frame ∧
        ((∃ c, t.status = 1 ∧ t.cause = some c) ∨ (t.status = 2 ∧ t.cause = none))))

/-- VALIDATE returns the payload when the sum mod 256 equals CSUM, and fails with ChecksumMismatch otherwise (44_frame_reader.md
(R92, R94); 60_exceptions.md section 2 (R113); 00_scope.md section 4 (R11)).

From every state with BUSY = 1 and SUSP = 0 whose frame buffer holds the payload d and the checksum c: if (d0 + d1 + d2 + d3)
mod 256 = c, exec VALIDATE writes OUT_DATA = d, STATUS 0, CAUSE none, RESULT_VALID 1, PHASE DONE in one step with one Result
event; otherwise STATUS 3, CAUSE none, OUT_DATA zero, RESULT_VALID 1, PHASE FAILED. No port event, nothing else changed. SUB is
written 0 (log entry 19). -/
def Obligations.ValidateChecksTheWrappingSum : Prop :=
  ∀ (s : State) (d : Payload) (c : Byte), s.busy = true → s.susp = false →
    s.frame = { d0 := some d.b0, d1 := some d.b1, d2 := some d.b2, d3 := some d.b3, csum := some c } →
    exec .validate s =
      if (d.b0.toNat + d.b1.toNat + d.b2.toNat + d.b3.toNat) % 256 = c.toNat then
        .next { s with
          outData := d, status := 0, cause := none, resultValid := true, phase := .done, sub := 0,
          trace := s.trace ++ [.result 0 none d] }
      else
        .next { s with
          outData := Payload.zero, status := 3, cause := none, resultValid := true, phase := .failed, sub := 0,
          trace := s.trace ++ [.result 3 none Payload.zero] }

/-- VALIDATE run on a frame buffer that lacks a byte stops with the fault that names it (10_state.md section 6 (R31);
93_implementation_defined.md I5).

From every state with BUSY = 1 and SUSP = 0 in which some frame-buffer byte holds no value, exec VALIDATE faults on the first of
DATA[0], DATA[1], DATA[2], DATA[3], CSUM that holds none. The name and the order of the faults are the model's (log entry 5). -/
def Obligations.ValidateNeedsTheWholeFrame : Prop :=
  ∀ s : State, s.busy = true → s.susp = false →
    (s.frame.d0 = none → exec .validate s = .fault (.noValue .data0)) ∧
    (s.frame.d0.isSome = true → s.frame.d1 = none → exec .validate s = .fault (.noValue .data1)) ∧
    (s.frame.d0.isSome = true → s.frame.d1.isSome = true → s.frame.d2 = none → exec .validate s = .fault (.noValue .data2)) ∧
    (s.frame.d0.isSome = true → s.frame.d1.isSome = true → s.frame.d2.isSome = true → s.frame.d3 = none →
      exec .validate s = .fault (.noValue .data3)) ∧
    (s.frame.d0.isSome = true → s.frame.d1.isSome = true → s.frame.d2.isSome = true → s.frame.d3.isSome = true →
      s.frame.csum = none → exec .validate s = .fault (.noValue .csum))

/-- Any one flipped bit of a valid frame's 40 makes it invalid, and two flips can cancel (44_frame_reader.md (R93)).

If the wrapping sum of d equals c, then after flipping any one bit of the five bytes it does not; flipping bit 7 of DATA[0] and
bit 7 of DATA[1] leaves it equal. The acceptance law is the spec's own inference (R93: derived from R92). -/
def Obligations.ChecksumCatchesEveryOneBitFlip : Prop :=
  ∀ (d : Payload) (c : Byte), d.sum = c →
    (∀ k, k < 5 → ∀ i, i < 8 → (flipBit k i d c).1.sum ≠ (flipBit k i d c).2) ∧
    (flipBit 1 7 (flipBit 0 7 d c).1 c).1.sum = c

/-- READ_FRAME is accepted when BUSY = 0: the result cleared, every datapath register without a value, PHASE START_PULSE
(44_frame_reader.md (R91); 20_memory.md section 1 (R42); 10_state.md section 6 (R30)).

From every state with BUSY = 0, exec READ_FRAME answers RESULT_VALID 0, STATUS 0, CAUSE none, OUT_DATA zero, SHIFT, BIT, DATA,
CSUM, BYTE_IDX, BIT_IDX, POLL_CNT and PDLY without a value, PHASE START_PULSE, SUB 0, with one Accept event; SUSP and the
environment unchanged. The read's steps 1 to 7 are the block's (log entry 8). With BUSY = 1 it is not accepted and the state is
unchanged (log entry 12). -/
def Obligations.ReadFrameIsAcceptedWhenNotBusy : Prop :=
  ∀ s : State,
    (s.busy = false → exec .readFrame s = .next { s with
      resultValid := false, status := 0, cause := none, outData := Payload.zero, shift := none, bit := none,
      frame := { d0 := none, d1 := none, d2 := none, d3 := none, csum := none }, byteIdx := none, bitIdx := none,
      pollCnt := none, pdly := none, phase := .startPulse, sub := 0, trace := s.trace ++ [.accept] }) ∧
    (s.busy = true → exec .readFrame s = .next s)

/-- ABORT ends a read in progress with no result; with BUSY = 0 it has no effect (R96).

The word 0x9000. With BUSY = 1 exec ABORT answers PHASE IDLE, SUB 0, SUSP 0 and one Abort event, every other register unchanged;
with BUSY = 0 the state is unchanged and there is no event. After it, in a state that keeps the invariant, no result is visible:
RESULT_VALID, STATUS, CAUSE and OUT_DATA are as the acceptance left them, neither a block turn nor a late completion changes
anything, and the next READ_FRAME is accepted. -/
def Obligations.AbortEndsTheReadInProgress : Prop :=
  encode .abort = 0x9000 ∧
  (∀ s : State,
    (s.busy = true → exec .abort s = .next { s with
      phase := .idle, sub := 0, susp := false, trace := s.trace ++ [.abort] }) ∧
    (s.busy = false → exec .abort s = .next s)) ∧
  (∀ s t : State, s.Inv → s.busy = true → exec .abort s = .next t →
    t.resultValid = false ∧ t.status = 0 ∧ t.cause = none ∧ t.outData = Payload.zero ∧
    blockTurn Config.hw t = .next t ∧ t.timeTurn = t ∧ exec .readFrame t = .next t.accept)

/-- After acceptance nothing is left of an earlier read but the trace, on which no step depends (10_state.md section 6 (R30);
44_frame_reader.md (R91, R97); 60_exceptions.md section 5 (R124)).

If two states with BUSY = 0 agree on SUSP and on the environment to come (inputs, answers, draws, the shared line), exec
READ_FRAME answers for both states that are equal but for the trace, whatever they recorded before and whatever their PHASE,
counters, datapath and result registers were, and adds one Accept to each trace. And every step does the same whatever events
were recorded before: with p put before the trace, it answers the same outcome with p before the trace. That the trace stands in
the state is the model's choice (log entry 13). -/
def Obligations.NothingOfAnEarlierReadReachesTheNext : Prop :=
  (∀ s t : State, s.busy = false → t.busy = false → s.susp = t.susp → s.inputs = t.inputs → s.line = t.line →
    s.drive = t.drive → s.draws = t.draws → s.lineShared = t.lineShared →
    ∃ u v, exec .readFrame s = .next u ∧ exec .readFrame t = .next v ∧ u.trace = s.trace ++ [.accept] ∧
      v.trace = t.trace ++ [.accept] ∧ { u with trace := [] } = { v with trace := [] }) ∧
  (∀ (p : List Event) (s : State), step (s.withHistory p) = historyOut p (step s))

/-- An internal operation given while BUSY = 0 or SUSP = 1 is turned away; a reserved operand is refused by name (45_sequencer.md
section 1 (R98); 70_reset_and_hazards.md section 2 (R131); 10_state.md section 3 (R23); 30_encoding.md sections 3 and 4 (R64,
R66, R67)).

For every well-formed internal operation, exec leaves the state unchanged when the block is not enabled. DELAY 0 and READ_BYTE
5..7 are refused in every state. Turning the word away, not refusing it, is the model's reading of R98 (log entry 11); that a
term with a reserved operand, which no word decodes to, is refused follows the reserved words of R64, R66 and R67 and is its
reading too (log entry 18). -/
def Obligations.InternalOperationsNeedAnEnabledBlock : Prop :=
  (∀ (i : Instr) (s : State), i.wf = true → i.isHostCommand = false → (s.busy = false ∨ s.susp = true) → exec i s = .next s) ∧
  (∀ (i : Instr) (s : State), i.wf = false → exec i s = .refused .reservedOperand)

/-- START_PULSE: one drive high whose answer is ignored, then Delay(48) and the first handshake wait (45_sequencer.md section 1
(R99); 44_frame_reader.md (R91)).

The block step at (START_PULSE, 0) makes one Drive(High) and sets SUB 1; at (START_PULSE, 1) it issues Delay(48), sets SUSP 1,
PHASE AWAIT_ACK_HIGH, SUB 0, POLL_CNT 0 and PDLY 0. Nothing else changes. -/
def Obligations.StartPulseDrivesOnceThenWaits : Prop :=
  ∀ s : State, s.phase = .startPulse →
    (s.sub = 0 → blockStep Config.hw s = .next { s with
      sub := 1, drive := s.drive.tail, draws := if s.drive = [] then s.draws + 1 else s.draws,
      trace := s.trace ++ [.drive .high s.driveAnswer] }) ∧
    (s.sub = 1 → blockStep Config.hw s = .next { s with
      phase := .awaitAckHigh, sub := 0, susp := true, pollCnt := some 0, pdly := some false,
      trace := s.trace ++ [.delay 48] })

/-- One step of a wait: the timeout, the owed delay, or one check (45_sequencer.md section 1 (R100); 45_sequencer.md section 1
(R102)).

For every budget B in 1..127, either parameter, target T, continuation K and every state with POLL_CNT = n <= B and PDLY = p: n
= B and p = 0 fail with Timeout and no port event; p = 1 issues Delay(1), SUSP 1, PDLY 0; otherwise one LineRead() and POLL_CNT
n + 1: Err(c) fails with LineError(c), T runs K, another level fails with Timeout if n + 1 = B and the parameter is false, and
else sets PDLY 1. -/
def Obligations.WaitStepIsPollStep : Prop :=
  ∀ (P : Config.Params) (T : Level) (K : State → Out) (s : State) (n : BitVec 7) (p : Bool), P.wf = true →
    s.pollCnt = some n → s.pdly = some p → n.toNat ≤ P.budget →
    pollStep P T K s =
      if n.toNat = P.budget ∧ p = false then .next (s.failEntry .timeout)
      else if p = true then
        .next { s with pdly := some false, susp := true, trace := s.trace ++ [.delay 1] }
      else
        let u : State := { s with
          pollCnt := some (BitVec.ofNat 7 (n.toNat + 1)), line := s.line.tail,
          draws := if s.line = [] then s.draws + 1 else s.draws, trace := s.trace ++ [.read s.lineAnswer] }
        match s.lineAnswer with
        | .err c => .next (u.failEntry (.lineError c))
        | .level l =>
          if l = T then K u
          else if n.toNat + 1 = P.budget ∧ P.delayAfterLast = false then .next (u.failEntry .timeout)
          else .next { u with pdly := some true }

/-- The failure entry: STATUS the kind's code, CAUSE a line error's cause or none, no data, PHASE FAILED, one Result event
(60_exceptions.md section 2 (R113); 60_exceptions.md section 1 (R108)).

For every state and every failure kind: STATUS 1, 2 or 3 for LineError(c), Timeout, ChecksumMismatch; CAUSE = c for LineError(c)
and none otherwise; OUT_DATA zero, RESULT_VALID 1, PHASE FAILED, SUB 0, the event Result added; no other register written. What
the host then reads is exactly that kind. -/
def Obligations.FailureEntryWritesTheKind : Prop :=
  ∀ (s : State) (k : FailKind),
    s.failEntry k = { s with
      status := (match k with | .lineError _ => 1 | .timeout => 2 | .checksumMismatch => 3),
      cause := (match k with | .lineError c => some c | .timeout => none | .checksumMismatch => none),
      outData := Payload.zero, resultValid := true, phase := .failed, sub := 0,
      trace := s.trace ++ [.result
        (match k with | .lineError _ => 1 | .timeout => 2 | .checksumMismatch => 3)
        (match k with | .lineError c => some c | .timeout => none | .checksumMismatch => none) Payload.zero] } ∧
    (s.failEntry k).result = some (.error k)

/-- fold_next: the fold, then the next bit, the next byte, or VALIDATE (R101).

For every state in which SHIFT, BIT, BIT_IDX = i and BYTE_IDX = j <= 4 hold values: the fold {SHIFT[6:0], BIT}, that is 2 *
SHIFT + BIT mod 256; for i < 7 it goes to SHIFT, BIT_IDX i + 1, SUB 0, the wait counters 0; for i = 7 it goes to frame[j], and
for j < 4 BYTE_IDX j + 1, BIT_IDX 0, SHIFT 0x00, SUB 0, the wait counters 0; for j = 4 PHASE VALIDATE, SUB 0. It is the
continuation of the fall wait: at (READ_BYTE, 3) the block step is poll_step(Low, fold_next). -/
def Obligations.FoldNextMovesToTheNextBitByteOrValidation : Prop :=
  (∀ (s : State) (sh : Byte) (b : BitVec 1) (i j : BitVec 3), s.shift = some sh → s.bit = some b → s.bitIdx = some i →
    s.byteIdx = some j → j ≤ 4 →
    ∃ v : Byte, v.toNat = (2 * sh.toNat + b.toNat) % 256 ∧
      foldNext s =
        if i.toNat < 7 then
          .next { s with
            shift := some v, bitIdx := some (BitVec.ofNat 3 (i.toNat + 1)), sub := 0, pollCnt := some 0, pdly := some false }
        else if j.toNat < 4 then
          .next { s with
            frame := s.frame.write j v, byteIdx := some (BitVec.ofNat 3 (j.toNat + 1)), bitIdx := some 0, shift := some 0,
            sub := 0, pollCnt := some 0, pdly := some false }
        else
          .next { s with frame := s.frame.write j v, shift := some v, phase := .validate, sub := 0 }) ∧
  (∀ s : State, s.phase = .readByte → s.sub = 3 → blockStep Config.hw s = pollStep Config.hw .low foldNext s)

/-- The transitions of the read's state machine, and no others, with what causes the entry and the exit of a read
(44_frame_reader.md (R97); 20_memory.md section 5 (R51)).

In every state of the hardware (no harness word waiting), a step that answers a next state leaves PHASE as it is or takes one of
the transitions R97 lists. START_PULSE is entered only by the host's 0x8000 with BUSY = 0; IDLE only by reset or by the host's
0x9000 with BUSY = 1. In particular START_PULSE never goes to FAILED. -/
def Obligations.PhasesMoveOnlyAsTheSpecSays : Prop :=
  ∀ s t : State, s.hardwareOnly = true → step s = .next t →
    (t.phase = s.phase ∨ s.phase.mayGo t.phase = true) ∧
    (t.phase = .startPulse → s.phase ≠ .startPulse → s.busy = false ∧ s.nextInput = moveTurn (.host 0x8000) ∧
      t = (s.takeInput).accept) ∧
    (t.phase = .idle → s.phase ≠ .idle →
      (∃ m, s.nextInput = .turn { reset := true, move := m }) ∨ (s.busy = true ∧ s.nextInput = moveTurn (.host 0x9000)))

/-- Between reads the block holds its last state until the next accepted READ_FRAME or a reset (70_reset_and_hazards.md section 1
(R128)).

In every state of the hardware with BUSY = 0 and SUSP = 0, a step that answers a next state and is neither the host's READ_FRAME
nor a reset leaves every register, every host field and the trace as they were; in a state that keeps the invariant, DONE and
FAILED are the states with a result, and IDLE has none. -/
def Obligations.ResultHoldsBetweenReads : Prop :=
  (∀ s t : State, s.hardwareOnly = true → s.busy = false → s.susp = false → step s = .next t →
    s.nextInput ≠ moveTurn (.host 0x8000) → (∀ m, s.nextInput ≠ .turn { reset := true, move := m }) →
    t.hostView = s.hostView ∧ { s with inputs := t.inputs, draws := t.draws, lineShared := t.lineShared } = t) ∧
  (∀ s : State, s.Inv → s.busy = false →
    (s.phase = .idle → s.resultValid = false) ∧ (s.phase ≠ .idle → s.resultValid = true ∧ s.result.isSome = true))

/-- RESULT_VALID is set by one step only, which writes the whole result and records it as its last event (20_memory.md section 4
(R49); 10_state.md section 4 (R24); 60_exceptions.md section 2 (R113)).

In every state of the hardware, if RESULT_VALID is 0 and a step answers a state with RESULT_VALID 1, the block was busy, the
step is its own turn, PHASE becomes DONE or FAILED, and the last event is Result with exactly the STATUS, CAUSE and OUT_DATA the
registers then hold. -/
def Obligations.ResultIsWrittenInOneStep : Prop :=
  ∀ s t : State, s.hardwareOnly = true → s.resultValid = false → step s = .next t → t.resultValid = true →
    s.busy = true ∧ s.nextInput = moveTurn .block ∧ (t.phase = .done ∨ t.phase = .failed) ∧
    t.trace.getLast? = some (.result t.status t.cause t.outData)

/-- A delay that is never completed leaves the block stuck with BUSY = 1, however often its turn comes (70_reset_and_hazards.md
section 5 (R139); 45_sequencer.md section 2 (R103); 93_implementation_defined.md I8).

From a state with BUSY = 1, SUSP = 1 and no shared line, any number of block turns, and any host word but ABORT, leave the state
unchanged but for the inputs taken. The turns are the model's inputs (log entry 3). -/
def Obligations.SuspendedBlockIsStuckWithoutTheTimeSource : Prop :=
  ∀ (s : State) (ws : List Move) (rest : List Input), s.busy = true → s.susp = true → s.lineShared = false →
    (∀ m ∈ ws, m = .block ∨ ∃ w : Word, m = .host w ∧ w ≠ 0x9000) → s.inputs = ws.map moveTurn ++ rest →
    Host.Core.run core ws.length s = .next { s with inputs := rest }

/-- An ABORT and an enabled step of the block or of the time source may be taken in either order, and the model runs both
(60_exceptions.md section 3 (R117); 92_eei_decisions.md D33).

Without a shared line. From an enabled state: with the ABORT first, the read ends and the block's turn then does nothing; with
the block's step first and answering u, the ABORT ends the read if u is still busy and has no effect if u holds a result. With a
delay outstanding: with the ABORT first, the delay is abandoned and the time source's turn then does nothing; with the time
source first, the delay completes and the ABORT then ends the read. The turns are the model's inputs (log entry 3); the late
completion is dropped without an event (log entry 14). -/
def Obligations.AbortAndBlockStepInEitherOrder : Prop :=
  (∀ (s u : State) (rest : List Input), s.busy = true → s.susp = false → s.lineShared = false →
    blockStep Config.hw { s with inputs := rest } = .next u →
    Host.Core.run core 2 { s with inputs := moveTurn (.host 0x9000) :: moveTurn .block :: rest } =
      .next { s with inputs := rest, phase := .idle, sub := 0, trace := s.trace ++ [.abort] } ∧
    Host.Core.run core 2 { s with inputs := moveTurn .block :: moveTurn (.host 0x9000) :: rest } =
      (if u.busy = true then .next { u with phase := .idle, sub := 0, susp := false, trace := u.trace ++ [.abort] }
       else .next u)) ∧
  (∀ (s : State) (rest : List Input), s.busy = true → s.susp = true → s.lineShared = false →
    Host.Core.run core 2 { s with inputs := moveTurn (.host 0x9000) :: moveTurn .timeSource :: rest } =
      .next { s with inputs := rest, phase := .idle, sub := 0, susp := false, trace := s.trace ++ [.abort] } ∧
    Host.Core.run core 2 { s with inputs := moveTurn .timeSource :: moveTurn (.host 0x9000) :: rest } =
      .next { s with
        inputs := rest, phase := .idle, sub := 0, susp := false, trace := s.trace ++ [.delayDone, .abort] })

/-- The invariant holds in the state after reset (10_state.md section 7 (R32); 10_state.md sections 3 and 4 (R21, R22, R23, R24)).

State.reset meets State.Inv: no harness word waits, the position fits the registers, the result registers fit PHASE. -/
def Obligations.InvariantHoldsAtReset : Prop :=
  State.reset.Inv

/-- Every step of the hardware keeps the invariant of the sequencer, the counters, the datapath and the result registers
(10_state.md sections 3, 4 and 6 (R21, R22, R23, R24, R31); 43_byte_assembler.md (R89); 45_sequencer.md section 1 (R99, R100,
R101)).

If s meets State.Inv and step s answers t, then t meets it: SUB fits PHASE, SUSP is 0 outside a read, POLL_CNT <= 100, BYTE_IDX
<= 4, SHIFT < 2^BIT_IDX, every frame byte below BYTE_IDX written, all five at VALIDATE, BIT written when a fall wait runs; no
result and no data while busy or idle; a result in DONE and FAILED, with data only in DONE and a cause exactly when STATUS = 1. -/
def Obligations.StepKeepsTheInvariant : Prop :=
  ∀ s t : State, s.Inv → step s = .next t → t.Inv

/-- No step faults in a state that meets the invariant, and the only refusal is a shared line (10_state.md section 6 (R31);
10_state.md section 3 (R22); 93_implementation_defined.md I5, I17).

If s meets State.Inv, step s answers a next state, unless another agent uses the line during a read and reset is not asserted:
no register is read before it is written, no counter leaves its range, no position off the table of R99 is reached. That R31's
register is never read is the spec's own inference (R31: derived from R88, R84, R91, R78); the faults are the model's (log
entries 5, 6 and 7), the refusal's form too (log entry 15). -/
def Obligations.NoStepOfTheHardwareFaults : Prop :=
  ∀ s : State, s.Inv → (∃ t, step s = .next t) ∨ (step s = .refused .lineShared ∧ s.busy = true ∧ s.lineShared = true)

/-- While a delay is outstanding its issue is the last event of the trace: every step keeps this, harness words included
(20_memory.md sections 1 and 6 (R39, R40, R53); 10_state.md section 3 (R23)).

State.delayInv (a delay is outstanding only while BUSY = 1, and then the trace ends with its Delay(n)) holds at reset and is
kept by every step from every state that meets it: never more than one port operation outstanding. -/
def Obligations.NothingOvertakesADelay : Prop :=
  State.reset.delayInv ∧ ∀ s t : State, s.delayInv → step s = .next t → t.delayInv

/-- No step drives the line low, and the trace is only ever added to (20_memory.md section 1 (R38, R40)).

If every drive in the trace is a drive high, it is so after every step, harness words included; and a step that answers a next
state only adds to the trace. The second clause is of the trace as the model keeps it, in the state and never cleared (log entry
13). -/
def Obligations.TheBlockNeverDrivesLow : Prop :=
  ∀ s t : State, step s = .next t → (s.drivesHigh → t.drivesHigh) ∧ ∃ es, t.trace = s.trace ++ es

/-- The block copies a line error's cause and never inspects it: renaming the causes renames the outcome and changes nothing else
(60_exceptions.md section 1 (R109); 92_eei_decisions.md D18; 00_scope.md section 3 (R7)).

For every renaming f of causes and every state whose next input is a turn of the hardware and whose answers are listed: the step
of the renamed state is the renamed outcome of the step. So no decision of the block depends on a cause, and the cause in the
result is the line's, unmodified. -/
def Obligations.CausesAreCopiedNeverInspected : Prop :=
  ∀ (f : LineCause → LineCause) (s : State) (i : Turn) (rest : List Input), s.inputs = .turn i :: rest → s.line ≠ [] →
    s.drive ≠ [] → step (s.rename f) = renameOut f (step s)

/-- The step machine refines the sequential program of a read: same registers, same trace, same result, for every line
(45_sequencer.md sections 1 and 2 (R99, R100, R101, R102, R105); 44_frame_reader.md (R91); 41_timeout_poller.md (R78)).

For every budget in 1..127 and either parameter, from every state with BUSY = 0 and SUSP = 0 and whatever the line answers: the
block's steps after the acceptance, with every delay completed, reach within 3 + 82 * (2B + 1) + 80 steps exactly the state in
which the sequential program of R91 ends, and the read is over there. That a read is a function of the line's answers is the
spec's own inference (R105: derived from R99 to R102). The sequential program is readWhole, which no step runs (log entry 8). -/
def Obligations.StepMachineRunsTheSequentialProgram : Prop :=
  ∀ (P : Config.Params) (s : State), P.wf = true → s.busy = false → s.susp = false →
    ∃ (n : Nat) (t : State), n ≤ 3 + 82 * (2 * P.budget + 1) + 40 * 2 ∧ blockSteps P n s.accept = .next t ∧
      readWhole P s = .next t ∧ t.busy = false ∧ t.resultValid = true

/-- Every read whose delays complete ends within 16565 block steps, whatever the line answers (45_sequencer.md section 2 (R104);
45_sequencer.md section 1 (R99, R100, R102)).

From every state with BUSY = 0 and SUSP = 0: after the acceptance the block reaches, within 16565 of its own steps with every
delay completed, a state with BUSY = 0, SUSP = 0 and a valid result. The bound is the spec's own inference (R104: derived from
rules R99 and R100). -/
def Obligations.ReadEndsWithinItsStepBound : Prop :=
  ∀ s : State, s.busy = false → s.susp = false →
    ∃ (n : Nat) (t : State), n ≤ 16565 ∧ blockSteps Config.hw n s.accept = .next t ∧ t.busy = false ∧ t.susp = false ∧
      t.resultValid = true ∧ t.result.isSome = true

/-- A whole run of the core: the host's READ_FRAME on a line that carries a frame returns its payload, or ChecksumMismatch and no
data (44_frame_reader.md (R91, R92, R93, R94); 20_memory.md section 2 (R43, R44, R45); 30_encoding.md section 1 (R60)).

From every clean entry, for every payload d and checksum c and every script that carries them with each of the 82 waits found at
any check of its budget: the run of the core in which the host writes 0x8000 and then the time source and the block take turns
ends, for some number of turns, with BUSY = 0 and the script used up, and the host reads Ok(d) if the wrapping sum of d is c,
and otherwise Err(ChecksumMismatch) with OUT_DATA zero. The turns are the model's inputs (log entry 3), and every delay is
completed. -/
def Obligations.ReadReturnsExactlyTheFrameOnTheLine : Prop :=
  ∀ (s : State) (f : FrameScript) (d : Payload) (c : Byte) (rest : List LineAnswer), s.cleanEntry = true →
    f.inBudget = true → f.carries d c → s.line = f.answers ++ rest →
    ∃ (n : Nat) (t : State), Host.Core.run core (1 + 2 * n) { s with inputs := readSchedule n } = .next t ∧
      t.busy = false ∧ t.line = rest ∧
      t.result = some (if d.sum = c then .ok d else .error .checksumMismatch) ∧
      t.outData = (if d.sum = c then d else Payload.zero)

/-- Event counts of a read whose 82 waits all succeed (45_sequencer.md section 3 (R106); 45_sequencer.md section 1 (R99, R100)).

With K the checks of the 82 waits, 82 <= K <= 8200: a whole read adds, between Accept and Result, 1 drive, K + 40 reads, one
Delay(48), 40 Delay(35), K - 82 Delay(1), K + 1366 time units and 2K port events: from 122 reads, 41 delays, 1448 units and 164
events up to 8240 reads, 8159 delays and 9566 units. The table is the spec's own inference (R106: derived from rules R99 and
R100). The read is the sequential program readWhole, which no step runs (log entry 8); O52 ties it to the step machine. -/
def Obligations.CountsOfACompleteRead : Prop :=
  ∀ (s : State) (f : FrameScript) (d : Payload) (c : Byte) (rest : List LineAnswer), s.busy = false → s.susp = false →
    f.inBudget = true → f.carries d c → s.line = f.answers ++ rest →
    ∃ (t : State) (es : List Event) (r : Event), readWhole Config.hw s = .next t ∧ t.trace = s.trace ++ es ++ [r] ∧
      82 ≤ f.checks ∧ f.checks ≤ 8200 ∧ driveCount es = 1 ∧ readCount es = f.checks + 40 ∧ delaysOf 48 es = 1 ∧
      delaysOf 35 es = 40 ∧ delaysOf 1 es = f.checks - 82 ∧ timeUnits es = f.checks + 1366 ∧ portCount es = 2 * f.checks ∧
      122 ≤ readCount es ∧ readCount es ≤ 8240 ∧ 41 ≤ delaysOf 1 es + delaysOf 35 es + delaysOf 48 es ∧
      delaysOf 1 es + delaysOf 35 es + delaysOf 48 es ≤ 8159 ∧ 1448 ≤ timeUnits es ∧ timeUnits es ≤ 9566 ∧ 164 ≤ portCount es

/-- Whatever the line answers, a read makes one drive, at most 8240 reads, 8160 delays, 16401 port events and 9567 time units
(70_reset_and_hazards.md section 5 (R138); 45_sequencer.md section 3 (R107); 20_memory.md section 1 (R38, R41)).

From every state with BUSY = 0, the sequential read ends in a state whose trace is the old one with events added, among them
exactly 1 drive and it is the first port event, at most 8240 reads, at most 8160 delays, at most 16401 port events besides the
completions, at most 9567 time units; every delay is of 1, 35 or 48 units. The bounds are the spec's own inferences (R107:
derived from R106; R138: derived from R106 and R107). The sequential read is readWhole, which no step runs (log entry 8); O52
ties it to the step machine. -/
def Obligations.AnyReadIsBounded : Prop :=
  ∀ s : State, s.busy = false →
    ∃ (t : State) (r : DriveAnswer) (es : List Event), readWhole Config.hw s = .next t ∧
      t.trace = s.trace ++ [.accept, .drive .high r, .delay 48, .delayDone] ++ es ∧ driveCount es = 0 ∧
      readCount es ≤ 8240 ∧ delaysOf 1 es + delaysOf 35 es + 1 ≤ 8160 ∧ portCount es + 2 ≤ 16401 ∧ timeUnits es + 48 ≤ 9567 ∧
      (∀ n, .delay n ∈ es → n = 1 ∨ n = 35)

/-- A whole read is the acceptance and then the ten operations of its expansion, whatever the line answers (30_encoding.md section 6
(R73); 44_frame_reader.md (R91); 60_exceptions.md section 2 (R112)).

From every state with BUSY = 0 and SUSP = 0: running DRIVE_HIGH, DELAY 48, POLL_HIGH, POLL_LOW, READ_BYTE 0 to 4 and VALIDATE
one after the other on the accepted state answers what the sequential read answers, BYTE_IDX left out (the sequencer writes it,
READ_BYTE on its own does not: log entry 10). A failure in any of them ends the whole expansion at once. It ends because an
operation given while BUSY = 0 is turned away, the model's reading (log entry 11); the sequential read is readWhole, which no
step runs (log entry 8). -/
def Obligations.ReadFrameIsItsExpansion : Prop :=
  ∀ s : State, s.busy = false → s.susp = false →
    withoutByteIdx (execAll readFrameSequence s.accept) = withoutByteIdx (readWhole Config.hw s)

/-- The status byte: 0x00 idle, 0x01 busy, 0x02 OK, 0x06 line error, 0x0A timeout, 0x0E checksum mismatch (30_encoding.md section 5
(R69); 95_test_vectors.md section 2.6, status bytes).

In every state, bit 0 of the status byte is BUSY, bit 1 RESULT_VALID, bits 3:2 STATUS and bits 7:4 zero; in a state that keeps
the invariant it is 0x00 in IDLE, 0x01 while busy, 0x02 in DONE, and in FAILED 0x06, 0x0A or 0x0E as STATUS is 1, 2 or 3. -/
def Obligations.StatusByteOfEveryState : Prop :=
  (∀ s : State, s.statusByte.toNat = s.busy.toNat + 2 * s.resultValid.toNat + 4 * s.status.toNat) ∧
  (∀ s : State, s.Inv →
    s.statusByte = (match s.phase with
      | .idle => 0x00
      | .done => 0x02
      | .failed => if s.status = 1 then 0x06 else if s.status = 2 then 0x0A else 0x0E
      | _ => 0x01))

/-- The packed data word has OUT_DATA[0] in bits 31:24 and equals the first 32 bits received read as one number (20_memory.md
section 2 (R45); 30_encoding.md section 5 (R69); 44_frame_reader.md (R92, R93)).

For every state, dataWord is {OUT_DATA[0], OUT_DATA[1], OUT_DATA[2], OUT_DATA[3]}; its value is that of the payload's bits in
wire order, most significant first. On success OUT_DATA[i] = DATA[i]: a VALIDATE that ends in DONE leaves the frame buffer's
four bytes in order in OUT_DATA. And a read of a line that carries a valid frame (any payload d and checksum c with d.sum = c,
each wait found at any check of its budget), run from any clean entry by the turns of the time source and the block, ends with
the data word equal to the number that the first 32 bits on the line spell, most significant first. The turns are the model's
inputs (log entry 3). -/
def Obligations.DataWordIsTheFirst32Bits : Prop :=
  (∀ s : State,
    s.dataWord.extractLsb' 24 8 = s.outData.b0 ∧ s.dataWord.extractLsb' 16 8 = s.outData.b1 ∧
    s.dataWord.extractLsb' 8 8 = s.outData.b2 ∧ s.dataWord.extractLsb' 0 8 = s.outData.b3 ∧
    s.dataWord.toNat =
      bitsValue (bitsOf s.outData.b0 ++ bitsOf s.outData.b1 ++ bitsOf s.outData.b2 ++ bitsOf s.outData.b3)) ∧
  (∀ s t : State, validate s = .next t → t.phase = .done →
    s.frame.d0 = some t.outData.b0 ∧ s.frame.d1 = some t.outData.b1 ∧ s.frame.d2 = some t.outData.b2 ∧
    s.frame.d3 = some t.outData.b3) ∧
  (∀ (s : State) (f : FrameScript) (d : Payload) (c : Byte) (rest : List LineAnswer), s.cleanEntry = true →
    f.inBudget = true → f.carries d c → d.sum = c → s.line = f.answers ++ rest →
    ∃ (n : Nat) (t : State), Host.Core.run core (1 + 2 * n) { s with inputs := readSchedule n } = .next t ∧
      t.busy = false ∧ t.dataWord.toNat = bitsValue ((f.bits.map BitScript.bit).take 32))

/-- The block's step at the positions of R99 after START_PULSE: what each wait does when it finds its level, the mid delay, the
sample, VALIDATE (45_sequencer.md section 1 (R99); 44_frame_reader.md (R92); 40_line_ops.md (R75)).

The step at AWAIT_ACK_HIGH is poll_step(High) with PHASE AWAIT_ACK_LOW and the wait counters 0 on success; at AWAIT_ACK_LOW
poll_step(Low) with PHASE READ_BYTE, SUB, BYTE_IDX, BIT_IDX, SHIFT and the counters 0; at READ_BYTE 0 poll_step(High) with SUB
1; at READ_BYTE 1 Delay(35), SUSP 1, SUB 2; at READ_BYTE 2 one LineRead(), then BIT the level, SUB 3, the counters 0, or the
failure LineError(c); at VALIDATE the result or ChecksumMismatch. Nothing else changes. IDLE, DONE and FAILED have no step. A
pair of PHASE and SUB that R99 does not list faults (log entry 7). READ_BYTE 3 is in FoldNextMovesToTheNextBitByteOrValidation,
poll_step in WaitStepIsPollStep. -/
def Obligations.BlockStepAtEachLaterPosition : Prop :=
  ∀ s : State,
    (s.phase = .awaitAckHigh → s.sub = 0 → blockStep Config.hw s = pollStep Config.hw .high (fun u => .next { u with
      phase := .awaitAckLow, pollCnt := some 0, pdly := some false }) s) ∧
    (s.phase = .awaitAckLow → s.sub = 0 → blockStep Config.hw s = pollStep Config.hw .low (fun u => .next { u with
      phase := .readByte, sub := 0, byteIdx := some 0, bitIdx := some 0, shift := some 0x00, pollCnt := some 0,
      pdly := some false }) s) ∧
    (s.phase = .readByte → s.sub = 0 →
      blockStep Config.hw s = pollStep Config.hw .high (fun u => .next { u with sub := 1 }) s) ∧
    (s.phase = .readByte → s.sub = 1 →
      blockStep Config.hw s = .next { s with sub := 2, susp := true, trace := s.trace ++ [.delay 35] }) ∧
    (s.phase = .readByte → s.sub = 2 → ∀ l, s.lineAnswer = .level l → blockStep Config.hw s = .next { s with
      bit := some (if l = .high then 1 else 0), sub := 3, pollCnt := some 0, pdly := some false, line := s.line.tail,
      draws := if s.line = [] then s.draws + 1 else s.draws, trace := s.trace ++ [.read (.level l)] }) ∧
    (s.phase = .readByte → s.sub = 2 → ∀ c, s.lineAnswer = .err c → blockStep Config.hw s = .next { s with
      phase := .failed, sub := 0, status := 1, cause := some c, outData := Payload.zero, resultValid := true,
      line := s.line.tail, draws := if s.line = [] then s.draws + 1 else s.draws,
      trace := s.trace ++ [.read (.err c), .result 1 (some c) Payload.zero] }) ∧
    (s.phase = .validate → s.sub = 0 → ∀ (d : Payload) (c : Byte),
      s.frame = { d0 := some d.b0, d1 := some d.b1, d2 := some d.b2, d3 := some d.b3, csum := some c } →
      blockStep Config.hw s =
        if (d.b0.toNat + d.b1.toNat + d.b2.toNat + d.b3.toNat) % 256 = c.toNat then
          .next { s with
            outData := d, status := 0, cause := none, resultValid := true, phase := .done,
            trace := s.trace ++ [.result 0 none d] }
        else
          .next { s with
            outData := Payload.zero, status := 3, cause := none, resultValid := true, phase := .failed,
            trace := s.trace ++ [.result 3 none Payload.zero] }) ∧
    (s.phase = .idle ∨ s.phase = .done ∨ s.phase = .failed → blockStep Config.hw s = .next s) ∧
    (s.phase = .startPulse ∧ 2 ≤ s.sub ∨
      (s.phase = .awaitAckHigh ∨ s.phase = .awaitAckLow ∨ s.phase = .validate) ∧ s.sub ≠ 0 →
      blockStep Config.hw s = .fault .position)
end

