-- ==== Sys2Proof/Laws/Assembler.lean ====
section
/-! SUPPORT. The tokens of a line: blanks are skipped, a word is one token, a comment is dropped; and the value of an operand's text. -/

namespace Sys2Proof.Machine

/-- A text with no comment is left as it is. -/
theorem stripComment_of_forall_ne {cs : List Char} (h : ∀ c ∈ cs, c ≠ ';') : stripComment cs = cs :=
  List.takeWhile_eq_self_iff.mpr fun c hc => by simpa using h c hc

/-- A comment is dropped. -/
theorem stripComment_append {cs : List Char} (h : ∀ c ∈ cs, c ≠ ';') (comment : List Char) :
    stripComment (cs ++ ';' :: comment) = cs := by
  rw [stripComment, List.takeWhile_append_of_pos fun c hc => by simpa using h c hc]
  simp

theorem ne_semicolon_of_isBlank {c : Char} (h : isBlank c = true) : c ≠ ';' := by
  rintro rfl
  exact absurd h (by decide)

/-- Blanks before a token are skipped. -/
theorem tokensFrom_blanks {bs : List Char} (h : bs.all isBlank = true) (cs : List Char) :
    tokensFrom [] (bs ++ cs) = tokensFrom [] cs := by
  induction bs with
  | nil => rfl
  | cons b bs ih =>
    simp only [List.all_cons, Bool.and_eq_true] at h
    simp [tokensFrom, h.1, ih h.2]

/-- The characters of a word go to the token being read. -/
theorem tokensFrom_word {w : List Char} (h : w.all (fun c => !isBlank c) = true) (cur cs : List Char) :
    tokensFrom cur (w ++ cs) = tokensFrom (w.reverse ++ cur) cs := by
  induction w generalizing cur with
  | nil => rfl
  | cons c w ih =>
    simp only [List.all_cons, Bool.and_eq_true, Bool.not_eq_true'] at h
    simp [tokensFrom, h.1, ih (by simpa using h.2)]

/-- Blanks end the token being read. -/
theorem tokensFrom_gap {cur gap : List Char} (hc : cur ≠ []) (hg : gap ≠ []) (h : gap.all isBlank = true) (cs : List Char) :
    tokensFrom cur (gap ++ cs) = cur.reverse :: tokensFrom [] cs := by
  cases gap with
  | nil => exact absurd rfl hg
  | cons b bs =>
    simp only [List.all_cons, Bool.and_eq_true] at h
    simp [tokensFrom, h.1, hc, tokensFrom_blanks h.2]

/-- The end of the line ends the token being read, blanks before it or none. -/
theorem tokensFrom_end {cur post : List Char} (hc : cur ≠ []) (h : post.all isBlank = true) :
    tokensFrom cur post = [cur.reverse] := by
  cases post with
  | nil => simp [tokensFrom, hc]
  | cons b bs => simpa [tokensFrom] using tokensFrom_gap hc (by simp) h []

/-- A line of blanks has no token. -/
theorem tokensFrom_nil_of_blanks {bs : List Char} (h : bs.all isBlank = true) : tokensFrom [] bs = [] := by
  simpa [tokensFrom] using tokensFrom_blanks h []

/-- A hexadecimal digit's character: its value, and no blank and no comment. -/
theorem hexDigit_spec (n : BitVec 4) :
    digitValue (hexDigit n) = some n.toNat ∧ isBlank (hexDigit n) = false ∧ hexDigit n ≠ ';' := by
  revert n
  decide

/-- A decimal digit's character: its value, and no blank, no comment and no `x`. -/
theorem decimalDigit_spec {n : Nat} (h : n < 10) :
    digitValue (decimalDigit n) = some n ∧ isBlank (decimalDigit n) = false ∧ decimalDigit n ≠ ';' ∧ decimalDigit n ≠ 'x' := by
  interval_cases n <;> decide

/-- A numeral that does not start with `0x` is decimal. -/
theorem numeral_decimal {c : Char} {cs : List Char} (h : cs.head? ≠ some 'x') : numeral (c :: cs) = digitsValue 10 0 (c :: cs) := by
  unfold numeral
  split <;> simp_all

/-- One digit more. -/
theorem digitsValue_cons {base acc n : Nat} {c : Char} {cs : List Char} (h : digitValue c = some n) (hn : n < base) :
    digitsValue base acc (c :: cs) = digitsValue base (acc * base + n) cs := by
  simp [digitsValue, h, hn]

/-- The hexadecimal text of an operand reads back as its value. -/
theorem numeral_operandText (v : BitVec 12) : numeral (operandText v) = some v.toNat := by
  have hv := v.isLt
  have d (n : BitVec 4) := (hexDigit_spec n).1
  show digitsValue 16 0 [_, _, _] = _
  rw [digitsValue_cons (d _) (BitVec.isLt _), digitsValue_cons (d _) (BitVec.isLt _), digitsValue_cons (d _) (BitVec.isLt _),
    digitsValue]
  simp [BitVec.extractLsb'_toNat, Nat.shiftRight_eq_div_pow]
  omega

/-- The decimal text of an operand reads back as its value. -/
theorem numeral_decimalText (v : BitVec 12) : numeral (decimalText v) = some v.toNat := by
  have hv := v.isLt
  have dv {n : Nat} (h : n < 10) := (decimalDigit_spec h).1
  have dx {n : Nat} (h : n < 10) := (decimalDigit_spec h).2.2.2
  unfold decimalText
  split
  · rw [numeral_decimal (by simp), digitsValue_cons (dv (by omega)) (by omega), digitsValue]
    simp
  split
  · rw [numeral_decimal (by simpa using dx (by omega)), digitsValue_cons (dv (by omega)) (by omega),
      digitsValue_cons (dv (by omega)) (by omega), digitsValue]
    congr 1
    omega
  split
  · rw [numeral_decimal (by simpa using dx (by omega)), digitsValue_cons (dv (by omega)) (by omega),
      digitsValue_cons (dv (by omega)) (by omega), digitsValue_cons (dv (by omega)) (by omega), digitsValue]
    congr 1
    omega
  · rw [numeral_decimal (by simpa using dx (by omega)), digitsValue_cons (dv (by omega)) (by omega),
      digitsValue_cons (dv (by omega)) (by omega), digitsValue_cons (dv (by omega)) (by omega),
      digitsValue_cons (dv (by omega)) (by omega), digitsValue]
    congr 1
    omega

/-- An operand's hexadecimal text holds neither a blank nor the start of a comment. -/
theorem operandText_chars (v : BitVec 12) : (operandText v).all (fun c => !isBlank c && c != ';') = true := by
  have d (n : BitVec 4) := (hexDigit_spec n).2
  simp [operandText, d]
  decide

/-- An operand's decimal text holds neither a blank nor the start of a comment. -/
theorem decimalText_chars (v : BitVec 12) : (decimalText v).all (fun c => !isBlank c && c != ';') = true := by
  have hv := v.isLt
  have d {n : Nat} (h : n < 10) : (!isBlank (decimalDigit n) && decimalDigit n != ';') = true := by
    simp [decimalDigit_spec h]
  unfold decimalText
  split
  · simp only [List.all_cons, List.all_nil, Bool.and_true]; exact d (by omega)
  split
  · simp only [List.all_cons, List.all_nil, Bool.and_true, d (show v.toNat / 10 < 10 by omega), d (show v.toNat % 10 < 10 by omega)]
  split
  · simp only [List.all_cons, List.all_nil, Bool.and_true, d (show v.toNat / 100 < 10 by omega),
      d (show v.toNat / 10 % 10 < 10 by omega), d (show v.toNat % 10 < 10 by omega)]
  · simp only [List.all_cons, List.all_nil, Bool.and_true, d (show v.toNat / 1000 < 10 by omega),
      d (show v.toNat / 100 % 10 < 10 by omega), d (show v.toNat / 10 % 10 < 10 by omega), d (show v.toNat % 10 < 10 by omega)]

end Sys2Proof.Machine
end

