-- ==== Sys2Proof/Laws/Decode.lean ====
section
/-! SUPPORT. The two fields of an operation word, as numbers and put together again, and what each decoder of an operand accepts. -/

namespace Sys2Proof

theorem opOf_toNat (w : Word) : (opOf w).toNat = w.toNat / 4096 := by
  have := w.isLt
  simp [opOf, BitVec.extractLsb'_toNat, Nat.shiftRight_eq_div_pow]
  omega

theorem argOf_toNat (w : Word) : (argOf w).toNat = w.toNat % 4096 := by
  simp [argOf]

theorem wordOf_toNat (op : BitVec 4) (arg : BitVec 12) : (wordOf op arg).toNat = op.toNat * 4096 + arg.toNat := by
  rw [wordOf, BitVec.toNat_append, Nat.shiftLeft_eq, Nat.mul_comm, ← Nat.two_pow_add_eq_or_of_lt arg.isLt, Nat.mul_comm]

@[simp] theorem opOf_wordOf (op : BitVec 4) (arg : BitVec 12) : opOf (wordOf op arg) = op := by
  have := arg.isLt
  apply BitVec.eq_of_toNat_eq
  rw [opOf_toNat, wordOf_toNat]
  omega

@[simp] theorem argOf_wordOf (op : BitVec 4) (arg : BitVec 12) : argOf (wordOf op arg) = arg := by
  have := arg.isLt
  apply BitVec.eq_of_toNat_eq
  rw [argOf_toNat, wordOf_toNat]
  omega

/-- The fields of a word make the word (rule R62). -/
theorem wordOf_fields (w : Word) : wordOf (opOf w) (argOf w) = w := by
  apply BitVec.eq_of_toNat_eq
  rw [wordOf_toNat, opOf_toNat, argOf_toNat]
  omega

theorem noArg_eq_ok {i j : Instr} {arg : BitVec 12} : noArg i arg = .ok j ↔ arg = 0 ∧ i = j := by
  unfold noArg
  split <;> simp_all

theorem decodeDelay_eq_ok {arg : BitVec 12} {j : Instr} : decodeDelay arg = .ok j ↔ arg ≠ 0 ∧ .delay arg = j := by
  unfold decodeDelay
  split <;> simp_all

/-- `arg[11:1] = 0` and `arg[0]` leave two arguments (rule R65). -/
theorem decodePoll_eq_ok {arg : BitVec 12} {j : Instr} :
    decodePoll arg = .ok j ↔ (arg = 0 ∧ .pollLow = j) ∨ (arg = 1 ∧ .pollHigh = j) := by
  have hi : arg.extractLsb' 1 11 = 0 ↔ arg.toNat / 2 = 0 := by
    rw [← BitVec.toNat_inj]
    have := arg.isLt
    simp [BitVec.extractLsb'_toNat, Nat.shiftRight_eq_div_pow]
    omega
  have lo : arg.extractLsb' 0 1 = 1 ↔ arg.toNat % 2 = 1 := by
    rw [← BitVec.toNat_inj]
    simp
  have h0 : arg = 0 ↔ arg.toNat = 0 := by rw [← BitVec.toNat_inj]; rfl
  have h1 : arg = 1 ↔ arg.toNat = 1 := by rw [← BitVec.toNat_inj]; rfl
  rw [h0, h1]
  by_cases a : arg.extractLsb' 1 11 = 0
  · have a' := hi.mp a
    by_cases b : arg.extractLsb' 0 1 = 1
    · have b' := lo.mp b
      have e1 : arg.toNat = 1 := by omega
      rw [decodePoll, if_neg (by simpa using a), if_pos b]
      simp [e1]
    · have b' := mt lo.mpr b
      have e0 : arg.toNat = 0 := by omega
      rw [decodePoll, if_neg (by simpa using a), if_neg b]
      simp [e0]
  · have a' := mt hi.mpr a
    have e0 : arg.toNat ≠ 0 := by omega
    have e1 : arg.toNat ≠ 1 := by omega
    rw [decodePoll, if_pos a]
    simp [e0, e1]

/-- `arg[11:3] = 0` and `arg[2:0]` at most 4 leave five arguments (rule R66). -/
theorem decodeReadByte_eq_ok {arg : BitVec 12} {j : Instr} :
    decodeReadByte arg = .ok j ↔ arg.toNat ≤ 4 ∧ .readByte (arg.setWidth 3) = j := by
  have hi : arg.extractLsb' 3 9 = 0 ↔ arg.toNat / 8 = 0 := by
    rw [← BitVec.toNat_inj]
    have := arg.isLt
    simp [BitVec.extractLsb'_toNat, Nat.shiftRight_eq_div_pow]
    omega
  have lo : 4 < arg.extractLsb' 0 3 ↔ 4 < arg.toNat % 8 := by
    rw [BitVec.lt_def]
    simp
  have eq : arg.extractLsb' 0 3 = arg.setWidth 3 := by
    apply BitVec.eq_of_toNat_eq
    simp
  by_cases a : arg.extractLsb' 3 9 ≠ 0 ∨ 4 < arg.extractLsb' 0 3
  · have a' : ¬ arg.toNat ≤ 4 := by
      rw [ne_eq, hi, lo] at a
      omega
    rw [decodeReadByte, if_pos a]
    simp [a']
  · have a' : arg.toNat ≤ 4 := by
      rw [ne_eq, hi, lo] at a
      omega
    rw [decodeReadByte, if_neg a, eq]
    simp [a']

end Sys2Proof
end

