-- ==== Sys2Proof/Laws/State.lean ====
section
/-! SUPPORT. One lemma per field per update of the state, true by rfl, so that no later proof unfolds a record update. -/

namespace Sys2Proof.Machine

/-! ### `State.lineRead` -/

@[simp] theorem State.lineRead_phase (s : State) : s.lineRead.phase = s.phase := rfl
@[simp] theorem State.lineRead_sub (s : State) : s.lineRead.sub = s.sub := rfl
@[simp] theorem State.lineRead_byteIdx (s : State) : s.lineRead.byteIdx = s.byteIdx := rfl
@[simp] theorem State.lineRead_bitIdx (s : State) : s.lineRead.bitIdx = s.bitIdx := rfl
@[simp] theorem State.lineRead_pollCnt (s : State) : s.lineRead.pollCnt = s.pollCnt := rfl
@[simp] theorem State.lineRead_pdly (s : State) : s.lineRead.pdly = s.pdly := rfl
@[simp] theorem State.lineRead_susp (s : State) : s.lineRead.susp = s.susp := rfl
@[simp] theorem State.lineRead_shift (s : State) : s.lineRead.shift = s.shift := rfl
@[simp] theorem State.lineRead_bit (s : State) : s.lineRead.bit = s.bit := rfl
@[simp] theorem State.lineRead_frame (s : State) : s.lineRead.frame = s.frame := rfl
@[simp] theorem State.lineRead_resultValid (s : State) : s.lineRead.resultValid = s.resultValid := rfl
@[simp] theorem State.lineRead_status (s : State) : s.lineRead.status = s.status := rfl
@[simp] theorem State.lineRead_cause (s : State) : s.lineRead.cause = s.cause := rfl
@[simp] theorem State.lineRead_outData (s : State) : s.lineRead.outData = s.outData := rfl
@[simp] theorem State.lineRead_trace (s : State) : s.lineRead.trace = s.trace ++ [.read s.lineAnswer] := rfl
@[simp] theorem State.lineRead_inputs (s : State) : s.lineRead.inputs = s.inputs := rfl
@[simp] theorem State.lineRead_line (s : State) : s.lineRead.line = s.line.tail := rfl
@[simp] theorem State.lineRead_drive (s : State) : s.lineRead.drive = s.drive := rfl
@[simp] theorem State.lineRead_draws (s : State) : s.lineRead.draws = if s.line.isEmpty then s.draws + 1 else s.draws := rfl
@[simp] theorem State.lineRead_lineShared (s : State) : s.lineRead.lineShared = s.lineShared := rfl

/-! ### `State.lineDriveHigh` -/

@[simp] theorem State.lineDriveHigh_phase (s : State) : s.lineDriveHigh.phase = s.phase := rfl
@[simp] theorem State.lineDriveHigh_sub (s : State) : s.lineDriveHigh.sub = s.sub := rfl
@[simp] theorem State.lineDriveHigh_byteIdx (s : State) : s.lineDriveHigh.byteIdx = s.byteIdx := rfl
@[simp] theorem State.lineDriveHigh_bitIdx (s : State) : s.lineDriveHigh.bitIdx = s.bitIdx := rfl
@[simp] theorem State.lineDriveHigh_pollCnt (s : State) : s.lineDriveHigh.pollCnt = s.pollCnt := rfl
@[simp] theorem State.lineDriveHigh_pdly (s : State) : s.lineDriveHigh.pdly = s.pdly := rfl
@[simp] theorem State.lineDriveHigh_susp (s : State) : s.lineDriveHigh.susp = s.susp := rfl
@[simp] theorem State.lineDriveHigh_shift (s : State) : s.lineDriveHigh.shift = s.shift := rfl
@[simp] theorem State.lineDriveHigh_bit (s : State) : s.lineDriveHigh.bit = s.bit := rfl
@[simp] theorem State.lineDriveHigh_frame (s : State) : s.lineDriveHigh.frame = s.frame := rfl
@[simp] theorem State.lineDriveHigh_resultValid (s : State) : s.lineDriveHigh.resultValid = s.resultValid := rfl
@[simp] theorem State.lineDriveHigh_status (s : State) : s.lineDriveHigh.status = s.status := rfl
@[simp] theorem State.lineDriveHigh_cause (s : State) : s.lineDriveHigh.cause = s.cause := rfl
@[simp] theorem State.lineDriveHigh_outData (s : State) : s.lineDriveHigh.outData = s.outData := rfl
@[simp] theorem State.lineDriveHigh_trace (s : State) : s.lineDriveHigh.trace = s.trace ++ [.drive .high s.driveAnswer] := rfl
@[simp] theorem State.lineDriveHigh_inputs (s : State) : s.lineDriveHigh.inputs = s.inputs := rfl
@[simp] theorem State.lineDriveHigh_line (s : State) : s.lineDriveHigh.line = s.line := rfl
@[simp] theorem State.lineDriveHigh_drive (s : State) : s.lineDriveHigh.drive = s.drive.tail := rfl
@[simp] theorem State.lineDriveHigh_draws (s : State) : s.lineDriveHigh.draws = if s.drive.isEmpty then s.draws + 1 else s.draws := rfl
@[simp] theorem State.lineDriveHigh_lineShared (s : State) : s.lineDriveHigh.lineShared = s.lineShared := rfl

/-! ### `State.issueDelay` -/

@[simp] theorem State.issueDelay_phase (n : Nat) (s : State) : (s.issueDelay n).phase = s.phase := rfl
@[simp] theorem State.issueDelay_sub (n : Nat) (s : State) : (s.issueDelay n).sub = s.sub := rfl
@[simp] theorem State.issueDelay_byteIdx (n : Nat) (s : State) : (s.issueDelay n).byteIdx = s.byteIdx := rfl
@[simp] theorem State.issueDelay_bitIdx (n : Nat) (s : State) : (s.issueDelay n).bitIdx = s.bitIdx := rfl
@[simp] theorem State.issueDelay_pollCnt (n : Nat) (s : State) : (s.issueDelay n).pollCnt = s.pollCnt := rfl
@[simp] theorem State.issueDelay_pdly (n : Nat) (s : State) : (s.issueDelay n).pdly = s.pdly := rfl
@[simp] theorem State.issueDelay_susp (n : Nat) (s : State) : (s.issueDelay n).susp = true := rfl
@[simp] theorem State.issueDelay_shift (n : Nat) (s : State) : (s.issueDelay n).shift = s.shift := rfl
@[simp] theorem State.issueDelay_bit (n : Nat) (s : State) : (s.issueDelay n).bit = s.bit := rfl
@[simp] theorem State.issueDelay_frame (n : Nat) (s : State) : (s.issueDelay n).frame = s.frame := rfl
@[simp] theorem State.issueDelay_resultValid (n : Nat) (s : State) : (s.issueDelay n).resultValid = s.resultValid := rfl
@[simp] theorem State.issueDelay_status (n : Nat) (s : State) : (s.issueDelay n).status = s.status := rfl
@[simp] theorem State.issueDelay_cause (n : Nat) (s : State) : (s.issueDelay n).cause = s.cause := rfl
@[simp] theorem State.issueDelay_outData (n : Nat) (s : State) : (s.issueDelay n).outData = s.outData := rfl
@[simp] theorem State.issueDelay_trace (n : Nat) (s : State) : (s.issueDelay n).trace = s.trace ++ [.delay n] := rfl
@[simp] theorem State.issueDelay_inputs (n : Nat) (s : State) : (s.issueDelay n).inputs = s.inputs := rfl
@[simp] theorem State.issueDelay_line (n : Nat) (s : State) : (s.issueDelay n).line = s.line := rfl
@[simp] theorem State.issueDelay_drive (n : Nat) (s : State) : (s.issueDelay n).drive = s.drive := rfl
@[simp] theorem State.issueDelay_draws (n : Nat) (s : State) : (s.issueDelay n).draws = s.draws := rfl
@[simp] theorem State.issueDelay_lineShared (n : Nat) (s : State) : (s.issueDelay n).lineShared = s.lineShared := rfl

/-! ### `State.delayDone` -/

@[simp] theorem State.delayDone_phase (s : State) : s.delayDone.phase = s.phase := rfl
@[simp] theorem State.delayDone_sub (s : State) : s.delayDone.sub = s.sub := rfl
@[simp] theorem State.delayDone_byteIdx (s : State) : s.delayDone.byteIdx = s.byteIdx := rfl
@[simp] theorem State.delayDone_bitIdx (s : State) : s.delayDone.bitIdx = s.bitIdx := rfl
@[simp] theorem State.delayDone_pollCnt (s : State) : s.delayDone.pollCnt = s.pollCnt := rfl
@[simp] theorem State.delayDone_pdly (s : State) : s.delayDone.pdly = s.pdly := rfl
@[simp] theorem State.delayDone_susp (s : State) : s.delayDone.susp = false := rfl
@[simp] theorem State.delayDone_shift (s : State) : s.delayDone.shift = s.shift := rfl
@[simp] theorem State.delayDone_bit (s : State) : s.delayDone.bit = s.bit := rfl
@[simp] theorem State.delayDone_frame (s : State) : s.delayDone.frame = s.frame := rfl
@[simp] theorem State.delayDone_resultValid (s : State) : s.delayDone.resultValid = s.resultValid := rfl
@[simp] theorem State.delayDone_status (s : State) : s.delayDone.status = s.status := rfl
@[simp] theorem State.delayDone_cause (s : State) : s.delayDone.cause = s.cause := rfl
@[simp] theorem State.delayDone_outData (s : State) : s.delayDone.outData = s.outData := rfl
@[simp] theorem State.delayDone_trace (s : State) : s.delayDone.trace = s.trace ++ [.delayDone] := rfl
@[simp] theorem State.delayDone_inputs (s : State) : s.delayDone.inputs = s.inputs := rfl
@[simp] theorem State.delayDone_line (s : State) : s.delayDone.line = s.line := rfl
@[simp] theorem State.delayDone_drive (s : State) : s.delayDone.drive = s.drive := rfl
@[simp] theorem State.delayDone_draws (s : State) : s.delayDone.draws = s.draws := rfl
@[simp] theorem State.delayDone_lineShared (s : State) : s.delayDone.lineShared = s.lineShared := rfl

/-! ### `State.waitReset` -/

@[simp] theorem State.waitReset_phase (s : State) : s.waitReset.phase = s.phase := rfl
@[simp] theorem State.waitReset_sub (s : State) : s.waitReset.sub = s.sub := rfl
@[simp] theorem State.waitReset_byteIdx (s : State) : s.waitReset.byteIdx = s.byteIdx := rfl
@[simp] theorem State.waitReset_bitIdx (s : State) : s.waitReset.bitIdx = s.bitIdx := rfl
@[simp] theorem State.waitReset_pollCnt (s : State) : s.waitReset.pollCnt = some 0 := rfl
@[simp] theorem State.waitReset_pdly (s : State) : s.waitReset.pdly = some false := rfl
@[simp] theorem State.waitReset_susp (s : State) : s.waitReset.susp = s.susp := rfl
@[simp] theorem State.waitReset_shift (s : State) : s.waitReset.shift = s.shift := rfl
@[simp] theorem State.waitReset_bit (s : State) : s.waitReset.bit = s.bit := rfl
@[simp] theorem State.waitReset_frame (s : State) : s.waitReset.frame = s.frame := rfl
@[simp] theorem State.waitReset_resultValid (s : State) : s.waitReset.resultValid = s.resultValid := rfl
@[simp] theorem State.waitReset_status (s : State) : s.waitReset.status = s.status := rfl
@[simp] theorem State.waitReset_cause (s : State) : s.waitReset.cause = s.cause := rfl
@[simp] theorem State.waitReset_outData (s : State) : s.waitReset.outData = s.outData := rfl
@[simp] theorem State.waitReset_trace (s : State) : s.waitReset.trace = s.trace := rfl
@[simp] theorem State.waitReset_inputs (s : State) : s.waitReset.inputs = s.inputs := rfl
@[simp] theorem State.waitReset_line (s : State) : s.waitReset.line = s.line := rfl
@[simp] theorem State.waitReset_drive (s : State) : s.waitReset.drive = s.drive := rfl
@[simp] theorem State.waitReset_draws (s : State) : s.waitReset.draws = s.draws := rfl
@[simp] theorem State.waitReset_lineShared (s : State) : s.waitReset.lineShared = s.lineShared := rfl

/-! ### `State.failEntry` -/

@[simp] theorem State.failEntry_phase (k : FailKind) (s : State) : (s.failEntry k).phase = .failed := rfl
@[simp] theorem State.failEntry_sub (k : FailKind) (s : State) : (s.failEntry k).sub = 0 := rfl
@[simp] theorem State.failEntry_byteIdx (k : FailKind) (s : State) : (s.failEntry k).byteIdx = s.byteIdx := rfl
@[simp] theorem State.failEntry_bitIdx (k : FailKind) (s : State) : (s.failEntry k).bitIdx = s.bitIdx := rfl
@[simp] theorem State.failEntry_pollCnt (k : FailKind) (s : State) : (s.failEntry k).pollCnt = s.pollCnt := rfl
@[simp] theorem State.failEntry_pdly (k : FailKind) (s : State) : (s.failEntry k).pdly = s.pdly := rfl
@[simp] theorem State.failEntry_susp (k : FailKind) (s : State) : (s.failEntry k).susp = s.susp := rfl
@[simp] theorem State.failEntry_shift (k : FailKind) (s : State) : (s.failEntry k).shift = s.shift := rfl
@[simp] theorem State.failEntry_bit (k : FailKind) (s : State) : (s.failEntry k).bit = s.bit := rfl
@[simp] theorem State.failEntry_frame (k : FailKind) (s : State) : (s.failEntry k).frame = s.frame := rfl
@[simp] theorem State.failEntry_resultValid (k : FailKind) (s : State) : (s.failEntry k).resultValid = true := rfl
@[simp] theorem State.failEntry_status (k : FailKind) (s : State) : (s.failEntry k).status = k.code := rfl
@[simp] theorem State.failEntry_cause (k : FailKind) (s : State) : (s.failEntry k).cause = k.cause := rfl
@[simp] theorem State.failEntry_outData (k : FailKind) (s : State) : (s.failEntry k).outData = Payload.zero := rfl
@[simp] theorem State.failEntry_trace (k : FailKind) (s : State) : (s.failEntry k).trace = s.trace ++ [.result k.code k.cause Payload.zero] := rfl
@[simp] theorem State.failEntry_inputs (k : FailKind) (s : State) : (s.failEntry k).inputs = s.inputs := rfl
@[simp] theorem State.failEntry_line (k : FailKind) (s : State) : (s.failEntry k).line = s.line := rfl
@[simp] theorem State.failEntry_drive (k : FailKind) (s : State) : (s.failEntry k).drive = s.drive := rfl
@[simp] theorem State.failEntry_draws (k : FailKind) (s : State) : (s.failEntry k).draws = s.draws := rfl
@[simp] theorem State.failEntry_lineShared (k : FailKind) (s : State) : (s.failEntry k).lineShared = s.lineShared := rfl

/-! ### `State.okEntry` -/

@[simp] theorem State.okEntry_phase (d : Payload) (s : State) : (s.okEntry d).phase = .done := rfl
@[simp] theorem State.okEntry_sub (d : Payload) (s : State) : (s.okEntry d).sub = 0 := rfl
@[simp] theorem State.okEntry_byteIdx (d : Payload) (s : State) : (s.okEntry d).byteIdx = s.byteIdx := rfl
@[simp] theorem State.okEntry_bitIdx (d : Payload) (s : State) : (s.okEntry d).bitIdx = s.bitIdx := rfl
@[simp] theorem State.okEntry_pollCnt (d : Payload) (s : State) : (s.okEntry d).pollCnt = s.pollCnt := rfl
@[simp] theorem State.okEntry_pdly (d : Payload) (s : State) : (s.okEntry d).pdly = s.pdly := rfl
@[simp] theorem State.okEntry_susp (d : Payload) (s : State) : (s.okEntry d).susp = s.susp := rfl
@[simp] theorem State.okEntry_shift (d : Payload) (s : State) : (s.okEntry d).shift = s.shift := rfl
@[simp] theorem State.okEntry_bit (d : Payload) (s : State) : (s.okEntry d).bit = s.bit := rfl
@[simp] theorem State.okEntry_frame (d : Payload) (s : State) : (s.okEntry d).frame = s.frame := rfl
@[simp] theorem State.okEntry_resultValid (d : Payload) (s : State) : (s.okEntry d).resultValid = true := rfl
@[simp] theorem State.okEntry_status (d : Payload) (s : State) : (s.okEntry d).status = 0 := rfl
@[simp] theorem State.okEntry_cause (d : Payload) (s : State) : (s.okEntry d).cause = none := rfl
@[simp] theorem State.okEntry_outData (d : Payload) (s : State) : (s.okEntry d).outData = d := rfl
@[simp] theorem State.okEntry_trace (d : Payload) (s : State) : (s.okEntry d).trace = s.trace ++ [.result 0 none d] := rfl
@[simp] theorem State.okEntry_inputs (d : Payload) (s : State) : (s.okEntry d).inputs = s.inputs := rfl
@[simp] theorem State.okEntry_line (d : Payload) (s : State) : (s.okEntry d).line = s.line := rfl
@[simp] theorem State.okEntry_drive (d : Payload) (s : State) : (s.okEntry d).drive = s.drive := rfl
@[simp] theorem State.okEntry_draws (d : Payload) (s : State) : (s.okEntry d).draws = s.draws := rfl
@[simp] theorem State.okEntry_lineShared (d : Payload) (s : State) : (s.okEntry d).lineShared = s.lineShared := rfl

/-! ### `State.accept` -/

@[simp] theorem State.accept_phase (s : State) : s.accept.phase = .startPulse := rfl
@[simp] theorem State.accept_sub (s : State) : s.accept.sub = 0 := rfl
@[simp] theorem State.accept_byteIdx (s : State) : s.accept.byteIdx = none := rfl
@[simp] theorem State.accept_bitIdx (s : State) : s.accept.bitIdx = none := rfl
@[simp] theorem State.accept_pollCnt (s : State) : s.accept.pollCnt = none := rfl
@[simp] theorem State.accept_pdly (s : State) : s.accept.pdly = none := rfl
@[simp] theorem State.accept_susp (s : State) : s.accept.susp = s.susp := rfl
@[simp] theorem State.accept_shift (s : State) : s.accept.shift = none := rfl
@[simp] theorem State.accept_bit (s : State) : s.accept.bit = none := rfl
@[simp] theorem State.accept_frame (s : State) : s.accept.frame = Frame.empty := rfl
@[simp] theorem State.accept_resultValid (s : State) : s.accept.resultValid = false := rfl
@[simp] theorem State.accept_status (s : State) : s.accept.status = 0 := rfl
@[simp] theorem State.accept_cause (s : State) : s.accept.cause = none := rfl
@[simp] theorem State.accept_outData (s : State) : s.accept.outData = Payload.zero := rfl
@[simp] theorem State.accept_trace (s : State) : s.accept.trace = s.trace ++ [.accept] := rfl
@[simp] theorem State.accept_inputs (s : State) : s.accept.inputs = s.inputs := rfl
@[simp] theorem State.accept_line (s : State) : s.accept.line = s.line := rfl
@[simp] theorem State.accept_drive (s : State) : s.accept.drive = s.drive := rfl
@[simp] theorem State.accept_draws (s : State) : s.accept.draws = s.draws := rfl
@[simp] theorem State.accept_lineShared (s : State) : s.accept.lineShared = s.lineShared := rfl

/-! ### `State.abortRead` -/

@[simp] theorem State.abortRead_phase (s : State) : s.abortRead.phase = .idle := rfl
@[simp] theorem State.abortRead_sub (s : State) : s.abortRead.sub = 0 := rfl
@[simp] theorem State.abortRead_byteIdx (s : State) : s.abortRead.byteIdx = s.byteIdx := rfl
@[simp] theorem State.abortRead_bitIdx (s : State) : s.abortRead.bitIdx = s.bitIdx := rfl
@[simp] theorem State.abortRead_pollCnt (s : State) : s.abortRead.pollCnt = s.pollCnt := rfl
@[simp] theorem State.abortRead_pdly (s : State) : s.abortRead.pdly = s.pdly := rfl
@[simp] theorem State.abortRead_susp (s : State) : s.abortRead.susp = false := rfl
@[simp] theorem State.abortRead_shift (s : State) : s.abortRead.shift = s.shift := rfl
@[simp] theorem State.abortRead_bit (s : State) : s.abortRead.bit = s.bit := rfl
@[simp] theorem State.abortRead_frame (s : State) : s.abortRead.frame = s.frame := rfl
@[simp] theorem State.abortRead_resultValid (s : State) : s.abortRead.resultValid = s.resultValid := rfl
@[simp] theorem State.abortRead_status (s : State) : s.abortRead.status = s.status := rfl
@[simp] theorem State.abortRead_cause (s : State) : s.abortRead.cause = s.cause := rfl
@[simp] theorem State.abortRead_outData (s : State) : s.abortRead.outData = s.outData := rfl
@[simp] theorem State.abortRead_trace (s : State) : s.abortRead.trace = s.trace ++ [.abort] := rfl
@[simp] theorem State.abortRead_inputs (s : State) : s.abortRead.inputs = s.inputs := rfl
@[simp] theorem State.abortRead_line (s : State) : s.abortRead.line = s.line := rfl
@[simp] theorem State.abortRead_drive (s : State) : s.abortRead.drive = s.drive := rfl
@[simp] theorem State.abortRead_draws (s : State) : s.abortRead.draws = s.draws := rfl
@[simp] theorem State.abortRead_lineShared (s : State) : s.abortRead.lineShared = s.lineShared := rfl

/-! ### `State.resetBlock` -/

@[simp] theorem State.resetBlock_phase (s : State) : s.resetBlock.phase = .idle := rfl
@[simp] theorem State.resetBlock_sub (s : State) : s.resetBlock.sub = 0 := rfl
@[simp] theorem State.resetBlock_byteIdx (s : State) : s.resetBlock.byteIdx = none := rfl
@[simp] theorem State.resetBlock_bitIdx (s : State) : s.resetBlock.bitIdx = none := rfl
@[simp] theorem State.resetBlock_pollCnt (s : State) : s.resetBlock.pollCnt = none := rfl
@[simp] theorem State.resetBlock_pdly (s : State) : s.resetBlock.pdly = none := rfl
@[simp] theorem State.resetBlock_susp (s : State) : s.resetBlock.susp = false := rfl
@[simp] theorem State.resetBlock_shift (s : State) : s.resetBlock.shift = none := rfl
@[simp] theorem State.resetBlock_bit (s : State) : s.resetBlock.bit = none := rfl
@[simp] theorem State.resetBlock_frame (s : State) : s.resetBlock.frame = Frame.empty := rfl
@[simp] theorem State.resetBlock_resultValid (s : State) : s.resetBlock.resultValid = false := rfl
@[simp] theorem State.resetBlock_status (s : State) : s.resetBlock.status = 0 := rfl
@[simp] theorem State.resetBlock_cause (s : State) : s.resetBlock.cause = none := rfl
@[simp] theorem State.resetBlock_outData (s : State) : s.resetBlock.outData = Payload.zero := rfl
@[simp] theorem State.resetBlock_trace (s : State) : s.resetBlock.trace = s.trace := rfl
@[simp] theorem State.resetBlock_inputs (s : State) : s.resetBlock.inputs = s.inputs := rfl
@[simp] theorem State.resetBlock_line (s : State) : s.resetBlock.line = s.line := rfl
@[simp] theorem State.resetBlock_drive (s : State) : s.resetBlock.drive = s.drive := rfl
@[simp] theorem State.resetBlock_draws (s : State) : s.resetBlock.draws = s.draws := rfl
@[simp] theorem State.resetBlock_lineShared (s : State) : s.resetBlock.lineShared = s.lineShared := rfl

/-! ### `State.takeInput` -/

@[simp] theorem State.takeInput_phase (s : State) : s.takeInput.phase = s.phase := rfl
@[simp] theorem State.takeInput_sub (s : State) : s.takeInput.sub = s.sub := rfl
@[simp] theorem State.takeInput_byteIdx (s : State) : s.takeInput.byteIdx = s.byteIdx := rfl
@[simp] theorem State.takeInput_bitIdx (s : State) : s.takeInput.bitIdx = s.bitIdx := rfl
@[simp] theorem State.takeInput_pollCnt (s : State) : s.takeInput.pollCnt = s.pollCnt := rfl
@[simp] theorem State.takeInput_pdly (s : State) : s.takeInput.pdly = s.pdly := rfl
@[simp] theorem State.takeInput_susp (s : State) : s.takeInput.susp = s.susp := rfl
@[simp] theorem State.takeInput_shift (s : State) : s.takeInput.shift = s.shift := rfl
@[simp] theorem State.takeInput_bit (s : State) : s.takeInput.bit = s.bit := rfl
@[simp] theorem State.takeInput_frame (s : State) : s.takeInput.frame = s.frame := rfl
@[simp] theorem State.takeInput_resultValid (s : State) : s.takeInput.resultValid = s.resultValid := rfl
@[simp] theorem State.takeInput_status (s : State) : s.takeInput.status = s.status := rfl
@[simp] theorem State.takeInput_cause (s : State) : s.takeInput.cause = s.cause := rfl
@[simp] theorem State.takeInput_outData (s : State) : s.takeInput.outData = s.outData := rfl
@[simp] theorem State.takeInput_trace (s : State) : s.takeInput.trace = s.trace := rfl
@[simp] theorem State.takeInput_inputs (s : State) : s.takeInput.inputs = s.inputs.tail := rfl
@[simp] theorem State.takeInput_line (s : State) : s.takeInput.line = s.line := rfl
@[simp] theorem State.takeInput_drive (s : State) : s.takeInput.drive = s.drive := rfl
@[simp] theorem State.takeInput_draws (s : State) : s.takeInput.draws = if s.inputs.isEmpty then s.draws + 1 else s.draws := rfl
@[simp] theorem State.takeInput_lineShared (s : State) : s.takeInput.lineShared = s.lineShared := rfl

/-! ### `State.check` -/

@[simp] theorem State.check_phase (cnt : BitVec 7) (s : State) : (s.check cnt).phase = s.phase := rfl
@[simp] theorem State.check_sub (cnt : BitVec 7) (s : State) : (s.check cnt).sub = s.sub := rfl
@[simp] theorem State.check_byteIdx (cnt : BitVec 7) (s : State) : (s.check cnt).byteIdx = s.byteIdx := rfl
@[simp] theorem State.check_bitIdx (cnt : BitVec 7) (s : State) : (s.check cnt).bitIdx = s.bitIdx := rfl
@[simp] theorem State.check_pollCnt (cnt : BitVec 7) (s : State) : (s.check cnt).pollCnt = some (cnt + 1) := rfl
@[simp] theorem State.check_pdly (cnt : BitVec 7) (s : State) : (s.check cnt).pdly = s.pdly := rfl
@[simp] theorem State.check_susp (cnt : BitVec 7) (s : State) : (s.check cnt).susp = s.susp := rfl
@[simp] theorem State.check_shift (cnt : BitVec 7) (s : State) : (s.check cnt).shift = s.shift := rfl
@[simp] theorem State.check_bit (cnt : BitVec 7) (s : State) : (s.check cnt).bit = s.bit := rfl
@[simp] theorem State.check_frame (cnt : BitVec 7) (s : State) : (s.check cnt).frame = s.frame := rfl
@[simp] theorem State.check_resultValid (cnt : BitVec 7) (s : State) : (s.check cnt).resultValid = s.resultValid := rfl
@[simp] theorem State.check_status (cnt : BitVec 7) (s : State) : (s.check cnt).status = s.status := rfl
@[simp] theorem State.check_cause (cnt : BitVec 7) (s : State) : (s.check cnt).cause = s.cause := rfl
@[simp] theorem State.check_outData (cnt : BitVec 7) (s : State) : (s.check cnt).outData = s.outData := rfl
@[simp] theorem State.check_trace (cnt : BitVec 7) (s : State) : (s.check cnt).trace = s.trace ++ [.read s.lineAnswer] := rfl
@[simp] theorem State.check_inputs (cnt : BitVec 7) (s : State) : (s.check cnt).inputs = s.inputs := rfl
@[simp] theorem State.check_line (cnt : BitVec 7) (s : State) : (s.check cnt).line = s.line.tail := rfl
@[simp] theorem State.check_drive (cnt : BitVec 7) (s : State) : (s.check cnt).drive = s.drive := rfl
@[simp] theorem State.check_draws (cnt : BitVec 7) (s : State) : (s.check cnt).draws = if s.line.isEmpty then s.draws + 1 else s.draws := rfl
@[simp] theorem State.check_lineShared (cnt : BitVec 7) (s : State) : (s.check cnt).lineShared = s.lineShared := rfl

end Sys2Proof.Machine
end

