-- ==== Sys2Proof/Laws/Ops.lean ====
section
/-! SUPPORT. What the shared operations answer: a register read, an enabled block, a sequence of runs, the words the host port takes. -/

namespace Sys2Proof.Machine

/-- A register read answers a next state exactly when the register holds a value and the rest does. -/
theorem withReg_eq_next {α : Type} {r : RegName} {v : Option α} {k : α → Out} {t : State} :
    withReg r v k = .next t ↔ ∃ x, v = some x ∧ k x = .next t := by
  cases v <;> simp [withReg]

@[simp] theorem withReg_some {α : Type} (r : RegName) (x : α) (k : α → Out) : withReg r (some x) k = k x := rfl

@[simp] theorem withReg_none {α : Type} (r : RegName) (k : α → Out) : withReg r none k = .fault (.noValue r) := rfl

/-- The block is enabled exactly when `BUSY = 1` and `SUSP = 0`. -/
theorem blockEnabled_iff {s : State} : s.blockEnabled = true ↔ s.busy = true ∧ s.susp = false := by
  simp [State.blockEnabled]

theorem blockEnabled_eq_false_iff {s : State} : s.blockEnabled = false ↔ s.busy = false ∨ s.susp = true := by
  cases hb : s.busy <;> simp [State.blockEnabled, hb]

theorem whenEnabled_of_enabled {s : State} (h : s.blockEnabled = true) (k : State → Out) : whenEnabled s k = k s := by
  simp [whenEnabled, h]

theorem whenEnabled_of_not_enabled {s : State} (h : s.blockEnabled = false) (k : State → Out) :
    whenEnabled s k = .next s := by
  simp [whenEnabled, h]

@[simp] theorem andThen_ok {α β : Type} (v : α) (s : State) (k : α → State → Run β) : (Run.ok v s).andThen k = k v s := rfl

@[simp] theorem andThen_failed {α β : Type} (s : State) (k : α → State → Run β) : (Run.failed s).andThen k = .failed s := rfl

@[simp] theorem state_ok {α : Type} (v : α) (s : State) : (Run.ok v s).state = s := rfl

@[simp] theorem state_failed {α : Type} (s : State) : (Run.failed s : Run α).state = s := rfl

/-- The next answer of a line whose coming answers are listed. -/
theorem lineAnswer_of_cons {s : State} {a : LineAnswer} {rest : List LineAnswer} (h : s.line = a :: rest) : s.lineAnswer = a := by
  simp [State.lineAnswer, h]

/-- A line read of a line whose coming answers are listed. -/
theorem lineRead_of_cons {s : State} {a : LineAnswer} {rest : List LineAnswer} (h : s.line = a :: rest) :
    s.lineRead = { s with line := rest, trace := s.trace ++ [.read a] } := by
  simp [State.lineRead, lineAnswer_of_cons h, h]

/-- A level that is not the target is the other one. -/
theorem eq_other_of_ne {l T : Level} (h : l ≠ T) : l = T.other := by
  cases l <;> cases T <;> simp_all [Level.other]

theorem other_ne (T : Level) : T.other ≠ T := by cases T <;> simp [Level.other]

end Sys2Proof.Machine
end

