-- ==== Sys2Proof/Laws/History.lean ====
section
/-! SUPPORT. The events recorded earlier: they change no other field, and each shared operation does the same with more of them. -/

namespace Sys2Proof.Machine

@[simp] theorem withHistory_busy (p : List Event) (s : State) : (s.withHistory p).busy = s.busy := rfl

@[simp] theorem withHistory_blockEnabled (p : List Event) (s : State) : (s.withHistory p).blockEnabled = s.blockEnabled := rfl

@[simp] theorem withHistory_lineConflict (p : List Event) (s : State) : (s.withHistory p).lineConflict = s.lineConflict := rfl

@[simp] theorem withHistory_phase (p : List Event) (s : State) : (s.withHistory p).phase = s.phase := rfl

@[simp] theorem withHistory_sub (p : List Event) (s : State) : (s.withHistory p).sub = s.sub := rfl

@[simp] theorem withHistory_susp (p : List Event) (s : State) : (s.withHistory p).susp = s.susp := rfl

@[simp] theorem withHistory_trace (p : List Event) (s : State) : (s.withHistory p).trace = p ++ s.trace := rfl

@[simp] theorem withHistory_lineAnswer (p : List Event) (s : State) : (s.withHistory p).lineAnswer = s.lineAnswer := rfl

@[simp] theorem withHistory_driveAnswer (p : List Event) (s : State) : (s.withHistory p).driveAnswer = s.driveAnswer := rfl

@[simp] theorem withHistory_nextInput (p : List Event) (s : State) : (s.withHistory p).nextInput = s.nextInput := rfl

theorem withHistory_takeInput (p : List Event) (s : State) : (s.withHistory p).takeInput = s.takeInput.withHistory p := rfl

theorem withHistory_resetBlock (p : List Event) (s : State) : (s.withHistory p).resetBlock = s.resetBlock.withHistory p := rfl

theorem withHistory_waitReset (p : List Event) (s : State) : (s.withHistory p).waitReset = s.waitReset.withHistory p := rfl

theorem withHistory_lineRead (p : List Event) (s : State) : (s.withHistory p).lineRead = s.lineRead.withHistory p := by
  simp [State.withHistory, State.lineRead, State.lineAnswer]

theorem withHistory_lineDriveHigh (p : List Event) (s : State) :
    (s.withHistory p).lineDriveHigh = s.lineDriveHigh.withHistory p := by
  simp [State.withHistory, State.lineDriveHigh, State.driveAnswer]

theorem withHistory_check (p : List Event) (cnt : BitVec 7) (s : State) :
    (s.withHistory p).check cnt = (s.check cnt).withHistory p := by
  simp [State.check, State.withHistory, State.lineRead, State.lineAnswer]

theorem withHistory_issueDelay (p : List Event) (n : Nat) (s : State) :
    (s.withHistory p).issueDelay n = (s.issueDelay n).withHistory p := by
  simp [State.withHistory, State.issueDelay]

theorem withHistory_delayDone (p : List Event) (s : State) : (s.withHistory p).delayDone = s.delayDone.withHistory p := by
  simp [State.withHistory, State.delayDone]

theorem withHistory_delay (p : List Event) (n : Nat) (s : State) : (s.withHistory p).delay n = (s.delay n).withHistory p := by
  simp [State.delay, withHistory_issueDelay, withHistory_delayDone]

theorem withHistory_owedDelay (p : List Event) (s : State) : (s.withHistory p).owedDelay = s.owedDelay.withHistory p :=
  withHistory_delay p Config.pollDelay { s with pdly := some false }

theorem withHistory_failEntry (p : List Event) (k : FailKind) (s : State) :
    (s.withHistory p).failEntry k = (s.failEntry k).withHistory p := by
  simp [State.failEntry, State.withHistory]

theorem withHistory_okEntry (p : List Event) (d : Payload) (s : State) :
    (s.withHistory p).okEntry d = (s.okEntry d).withHistory p := by
  simp [State.okEntry, State.withHistory]

theorem withHistory_accept (p : List Event) (s : State) : (s.withHistory p).accept = s.accept.withHistory p := by
  simp [State.accept, State.withHistory]

theorem withHistory_abortRead (p : List Event) (s : State) : (s.withHistory p).abortRead = s.abortRead.withHistory p := by
  simp [State.abortRead, State.withHistory]

end Sys2Proof.Machine
end

