-- ==== Sys2Proof/Laws/PerInstr.lean ====
section
/-! SUPPORT. Per-instruction families: the encoding of each operation fits its row of spec/opcode_table.json. -/

namespace Sys2Proof.Laws.EncodedInTable

/-- The mask of the operation's row in spec/opcode_table.json. -/
def mask : Instr → Word
  | .driveHigh => 0xFFFF
  | .readLevel => 0xFFFF
  | .delay _ => 0xF000
  | .pollLow => 0xFFFF
  | .pollHigh => 0xFFFF
  | .sampleBit => 0xFFFF
  | .readByte _ => 0xFFF8
  | .validate => 0xFFFF
  | .readFrame => 0xFFFF
  | .abort => 0xFFFF

/-- The match value of the operation's row in spec/opcode_table.json. -/
def pattern : Instr → Word
  | .driveHigh => 0x1000
  | .readLevel => 0x2000
  | .delay _ => 0x3000
  | .pollLow => 0x4000
  | .pollHigh => 0x4001
  | .sampleBit => 0x5000
  | .readByte _ => 0x6000
  | .validate => 0x7000
  | .readFrame => 0x8000
  | .abort => 0x9000

/-- The word of the operation has its row's fixed bits, whatever its operand (rule R63). -/
def Statement (i : Instr) : Prop := encode i &&& mask i = pattern i

theorem driveHigh : Statement .driveHigh := rfl

theorem readLevel : Statement .readLevel := rfl

theorem delay (n : BitVec 12) : Statement (.delay n) := by
  apply BitVec.eq_of_getLsbD_eq
  intro k hk
  simp only [encode, wordOf, mask, pattern, BitVec.getLsbD_and, BitVec.getLsbD_append]
  interval_cases k <;> simp

theorem pollLow : Statement .pollLow := rfl

theorem pollHigh : Statement .pollHigh := rfl

theorem sampleBit : Statement .sampleBit := rfl

theorem readByte (slot : BitVec 3) : Statement (.readByte slot) := by
  revert slot
  unfold Statement
  decide

theorem validate : Statement .validate := rfl

theorem readFrame : Statement .readFrame := rfl

theorem abort : Statement .abort := rfl

end Sys2Proof.Laws.EncodedInTable
end

