-- ==== Sys2Proof/Laws/Poll.lean ====
section
/-! SUPPORT. What a sub-step of a read can do, said once for the sample, the wait, the bit, the byte and the bytes of a read: what it
keeps, and how it ends. -/

namespace Sys2Proof.Machine

/-- What every sub-step of a bit read keeps (rule R33): the indices, `SHIFT`, the frame buffer, no delay outstanding, the environment's
other data, and the events so far, to which no drive is added. -/
structure SubStepKeeps (s t : State) : Prop where
  byteIdx : t.byteIdx = s.byteIdx
  bitIdx : t.bitIdx = s.bitIdx
  shift : t.shift = s.shift
  frame : t.frame = s.frame
  susp : t.susp = false
  inputs : t.inputs = s.inputs
  drive : t.drive = s.drive
  lineShared : t.lineShared = s.lineShared
  trace : ∃ es, t.trace = s.trace ++ es ∧ driveCount es = 0

/-- The position and the result registers are those of `s`: nothing has failed. -/
structure GoesOn (s t : State) : Prop where
  phase : t.phase = s.phase
  sub : t.sub = s.sub
  resultValid : t.resultValid = s.resultValid
  status : t.status = s.status
  cause : t.cause = s.cause
  outData : t.outData = s.outData

/-- The read has failed with a line error or a timeout (rules R112 and R113). -/
structure HasFailed (t : State) : Prop where
  phase : t.phase = .failed
  sub : t.sub = 0
  resultValid : t.resultValid = true
  outData : t.outData = Payload.zero
  kind : (∃ c, t.status = 1 ∧ t.cause = some c) ∨ (t.status = 2 ∧ t.cause = none)

/-- How a run from `s` ends: it goes on, or has failed. -/
def EndsFrom {α : Type} (s : State) : Run α → Prop
  | .ok _ t => GoesOn s t
  | .failed t => HasFailed t

/-- A run keeps what a sub-step keeps, and goes on or has failed. -/
structure SubStep {α : Type} (s : State) (r : Run α) : Prop where
  keeps : SubStepKeeps s r.state
  ends : EndsFrom s r

theorem SubStepKeeps.refl {s : State} (h : s.susp = false) : SubStepKeeps s s :=
  ⟨rfl, rfl, rfl, rfl, h, rfl, rfl, rfl, [], by simp, rfl⟩

theorem SubStepKeeps.trans {s t u : State} (h : SubStepKeeps s t) (k : SubStepKeeps t u) : SubStepKeeps s u := by
  obtain ⟨es, he, ne⟩ := h.trace
  obtain ⟨fs, hf, nf⟩ := k.trace
  exact ⟨k.byteIdx.trans h.byteIdx, k.bitIdx.trans h.bitIdx, k.shift.trans h.shift, k.frame.trans h.frame, k.susp,
    k.inputs.trans h.inputs, k.drive.trans h.drive, k.lineShared.trans h.lineShared, es ++ fs, by simp [hf, he],
    by rw [driveCount] at *; rw [List.countP_append, ne, nf]⟩

theorem GoesOn.refl (s : State) : GoesOn s s := ⟨rfl, rfl, rfl, rfl, rfl, rfl⟩

theorem GoesOn.trans {s t u : State} (h : GoesOn s t) (k : GoesOn t u) : GoesOn s u :=
  ⟨k.phase.trans h.phase, k.sub.trans h.sub, k.resultValid.trans h.resultValid, k.status.trans h.status,
    k.cause.trans h.cause, k.outData.trans h.outData⟩

theorem hasFailed_lineError (s : State) (c : LineCause) : HasFailed (s.failEntry (.lineError c)) :=
  ⟨rfl, rfl, rfl, rfl, .inl ⟨c, rfl, rfl⟩⟩

theorem hasFailed_timeout (s : State) : HasFailed (s.failEntry .timeout) := ⟨rfl, rfl, rfl, rfl, .inr ⟨rfl, rfl⟩⟩

/-- A run that ends well ends in a state that goes on. -/
theorem SubStep.of_ok {α : Type} {s t : State} {v : α} (k : SubStepKeeps s t) (g : GoesOn s t) :
    SubStep s (Run.ok v t) := ⟨k, g⟩

theorem SubStep.of_failed {α : Type} {s t : State} (k : SubStepKeeps s t) (h : HasFailed t) :
    SubStep s (Run.failed t : Run α) := ⟨k, h⟩

/-- Sub-steps in a row are a sub-step. -/
theorem SubStep.andThen {α β : Type} {s : State} {r : Run α} {k : α → State → Run β} (h : SubStep s r)
    (hk : ∀ v t, t.susp = false → SubStep t (k v t)) : SubStep s (r.andThen k) := by
  cases r with
  | failed t => exact ⟨h.keeps, h.ends⟩
  | ok v t =>
    have g := hk v t h.keeps.susp
    have gk := h.keeps.trans g.keeps
    have ge := g.ends
    rw [andThen_ok]
    generalize k v t = r' at gk ge
    cases r' with
    | ok w u => exact ⟨gk, GoesOn.trans (show GoesOn s t from h.ends) ge⟩
    | failed u => exact ⟨gk, ge⟩

/-- A sub-step from a state that differs in nothing a sub-step looks at. -/
theorem SubStep.from {α : Type} {s t : State} {r : Run α} (h : SubStep t r) (k : SubStepKeeps s t) (g : GoesOn s t) :
    SubStep s r := by
  cases r with
  | ok v u => exact ⟨k.trans h.keeps, g.trans h.ends⟩
  | failed u => exact ⟨k.trans h.keeps, h.ends⟩

/-- The sample of a bit read is a sub-step (rule R75). -/
theorem sampleLevel_subStep (s : State) (h : s.susp = false) : SubStep s (sampleLevel s) := by
  unfold sampleLevel
  cases ha : s.lineAnswer with
  | level l =>
    exact .of_ok ⟨rfl, rfl, rfl, rfl, h, rfl, rfl, rfl, _, rfl, rfl⟩ ⟨rfl, rfl, rfl, rfl, rfl, rfl⟩
  | err c =>
    exact .of_failed ⟨rfl, rfl, rfl, rfl, h, rfl, rfl, rfl,
      [.read (.err c), .result 1 (some c) Payload.zero], by simp [*, FailKind.code, FailKind.cause], rfl⟩ (hasFailed_lineError _ c)

/-- A check is a sub-step's part. -/
theorem check_keeps (s : State) (cnt : BitVec 7) (h : s.susp = false) : SubStepKeeps s (s.check cnt) :=
  ⟨rfl, rfl, rfl, rfl, h, rfl, rfl, rfl, _, rfl, rfl⟩

theorem owedDelay_keeps (s : State) : SubStepKeeps s s.owedDelay :=
  ⟨rfl, rfl, rfl, rfl, rfl, rfl, rfl, rfl, [.delay Config.pollDelay, .delayDone], by
    simp [State.owedDelay, State.delay, State.delayDone, State.issueDelay], rfl⟩

theorem delay_keeps (n : Nat) (s : State) : SubStepKeeps s (s.delay n) :=
  ⟨rfl, rfl, rfl, rfl, rfl, rfl, rfl, rfl, [.delay n, .delayDone], by
    simp [State.delay, State.delayDone, State.issueDelay], rfl⟩

theorem failEntry_keeps (k : FailKind) (s : State) (h : s.susp = false) : SubStepKeeps s (s.failEntry k) :=
  ⟨rfl, rfl, rfl, rfl, h, rfl, rfl, rfl, _, rfl, rfl⟩

/-- Going round the loop of a wait is a sub-step (rule R78). -/
theorem pollLoop_subStep (P : Config.Params) (T : Level) (left : Nat) (cnt : BitVec 7) (s : State) (h : s.susp = false) :
    SubStep s (pollLoop P T left cnt s) := by
  induction left generalizing cnt s with
  | zero => exact .of_failed (failEntry_keeps _ s h) (hasFailed_timeout s)
  | succ left ih =>
    unfold pollLoop
    have hc := check_keeps s cnt h
    cases s.lineAnswer with
    | err c => exact .of_failed (hc.trans (failEntry_keeps _ _ h)) (hasFailed_lineError _ c)
    | level l =>
      simp only
      split
      · exact .of_ok hc ⟨rfl, rfl, rfl, rfl, rfl, rfl⟩
      · split
        · split
          · exact .of_failed ((hc.trans (owedDelay_keeps _)).trans (failEntry_keeps _ _ rfl)) (hasFailed_timeout _)
          · exact .of_failed (hc.trans (failEntry_keeps _ _ h)) (hasFailed_timeout _)
        · exact (ih (cnt + 1) (s.check cnt).owedDelay rfl).from (hc.trans (owedDelay_keeps _)) ⟨rfl, rfl, rfl, rfl, rfl, rfl⟩

/-- A wait is a sub-step (rule R78). -/
theorem poll_subStep (P : Config.Params) (T : Level) (s : State) (h : s.susp = false) : SubStep s (poll P T s) :=
  (pollLoop_subStep P T P.budget 0 s.waitReset h).from ⟨rfl, rfl, rfl, rfl, h, rfl, rfl, rfl, [], by simp, rfl⟩
    ⟨rfl, rfl, rfl, rfl, rfl, rfl⟩

/-- A bit read is a sub-step (rule R84). -/
theorem sampleBit_subStep (P : Config.Params) (s : State) (h : s.susp = false) : SubStep s (sampleBit P s) :=
  (poll_subStep P .high s h).andThen fun _ t _ =>
    ((sampleLevel_subStep (t.delay Config.sampleDelay) rfl).from (delay_keeps _ t) ⟨rfl, rfl, rfl, rfl, rfl, rfl⟩).andThen
      fun _ _ h2 => (poll_subStep P .low _ h2).andThen fun _ _ h3 => .of_ok (.refl h3) (.refl _)

/-- A wait never writes `BIT` (rule R78). -/
theorem pollLoop_bit (P : Config.Params) (T : Level) (left : Nat) (cnt : BitVec 7) (s : State) :
    (pollLoop P T left cnt s).state.bit = s.bit := by
  induction left generalizing cnt s with
  | zero => rfl
  | succ left ih =>
    unfold pollLoop
    cases s.lineAnswer with
    | err c => rfl
    | level l =>
      simp only
      split
      · rfl
      · split
        · split <;> rfl
        · exact ih _ _

theorem poll_bit (P : Config.Params) (T : Level) (s : State) : (poll P T s).state.bit = s.bit := pollLoop_bit P T _ _ _

end Sys2Proof.Machine
end

