-- ==== Sys2Proof/Laws/Sequencer.lean ====
section
/-! SUPPORT. Everything a step of the machine can do, said once: one inductive relation per shared operation of the step machine, and
the lemma that an answered next state is in it. Later proofs are case analyses over these relations. -/

namespace Sys2Proof.Machine

/-- What one step of a wait can do (rule R100). -/
inductive PollStepTo (P : Config.Params) (T : Level) (K : State → Out) (s : State) : State → Prop where
  | timeout (cnt : BitVec 7) (hc : s.pollCnt = some cnt) (hp : s.pdly = some false) (hb : cnt.toNat = P.budget) :
      PollStepTo P T K s (s.failEntry .timeout)
  | delay (cnt : BitVec 7) (hc : s.pollCnt = some cnt) (hp : s.pdly = some true) (hb : cnt.toNat ≤ P.budget) :
      PollStepTo P T K s (({ s with pdly := some false }).issueDelay Config.pollDelay)
  | error (cnt : BitVec 7) (c : LineCause) (hc : s.pollCnt = some cnt) (hp : s.pdly = some false) (hb : cnt.toNat < P.budget)
      (ha : s.lineAnswer = .err c) : PollStepTo P T K s ((s.check cnt).failEntry (.lineError c))
  | found (cnt : BitVec 7) (t : State) (hc : s.pollCnt = some cnt) (hp : s.pdly = some false) (hb : cnt.toNat < P.budget)
      (ha : s.lineAnswer = .level T) (hk : K (s.check cnt) = .next t) : PollStepTo P T K s t
  | lastMiss (cnt : BitVec 7) (hc : s.pollCnt = some cnt) (hp : s.pdly = some false) (hb : cnt.toNat + 1 = P.budget)
      (hd : P.delayAfterLast = false) (ha : s.lineAnswer = .level T.other) :
      PollStepTo P T K s ((s.check cnt).failEntry .timeout)
  | miss (cnt : BitVec 7) (hc : s.pollCnt = some cnt) (hp : s.pdly = some false) (hb : cnt.toNat < P.budget)
      (ha : s.lineAnswer = .level T.other) : PollStepTo P T K s { s.check cnt with pdly := some true }

theorem pollStep_next {P : Config.Params} {T : Level} {K : State → Out} {s t : State} (h : pollStep P T K s = .next t) :
    PollStepTo P T K s t := by
  obtain ⟨cnt, hc, h⟩ := withReg_eq_next.mp h
  obtain ⟨owed, hp, h⟩ := withReg_eq_next.mp h
  split at h
  · cases h
  rename_i hle
  split at h
  · rename_i hb
    cases h
    exact .timeout cnt hc (by rw [hp, hb.2]) hb.1
  rename_i hb
  cases owed with
  | true =>
    cases h
    exact .delay cnt hc hp (by omega)
  | false =>
    have hlt : cnt.toNat < P.budget := by simp at hb; omega
    simp only [Bool.false_eq_true, if_false] at h
    split at h
    · rename_i c ha
      cases h
      exact .error cnt c hc hp hlt ha
    · rename_i l ha
      split at h
      · rename_i hl
        exact .found cnt t hc hp hlt (by rw [ha, hl]) h
      · rename_i hl
        have ho := eq_other_of_ne hl
        split at h
        · rename_i hd
          cases h
          exact .lastMiss cnt hc hp hd.1 hd.2 (by rw [ha, ho])
        · cases h
          exact .miss cnt hc hp hlt (by rw [ha, ho])

/-- What `fold_next` can do (rule R101). -/
inductive FoldNextTo (s : State) : State → Prop where
  | nextBit (sh : Byte) (b : BitVec 1) (i : BitVec 3) (hs : s.shift = some sh) (hb : s.bit = some b) (hi : s.bitIdx = some i)
      (h7 : i < 7) :
      FoldNextTo s ({ s with shift := some (foldBit sh b), bitIdx := some (i + 1), sub := 0 }).waitReset
  | nextByte (sh : Byte) (b : BitVec 1) (i j : BitVec 3) (hs : s.shift = some sh) (hb : s.bit = some b)
      (hi : s.bitIdx = some i) (h7 : ¬ i < 7) (hj : s.byteIdx = some j) (h4 : j < 4) :
      FoldNextTo s ({ s with
        frame := s.frame.write j (foldBit sh b), byteIdx := some (j + 1), bitIdx := some 0, shift := some 0,
        sub := 0 }).waitReset
  | lastByte (sh : Byte) (b : BitVec 1) (i : BitVec 3) (hs : s.shift = some sh) (hb : s.bit = some b)
      (hi : s.bitIdx = some i) (h7 : ¬ i < 7) (hj : s.byteIdx = some 4) :
      FoldNextTo s { s with
        frame := s.frame.write 4 (foldBit sh b), shift := some (foldBit sh b), phase := .validate, sub := 0 }

theorem foldNext_next {s t : State} (h : foldNext s = .next t) : FoldNextTo s t := by
  obtain ⟨sh, hs, h⟩ := withReg_eq_next.mp h
  obtain ⟨b, hb, h⟩ := withReg_eq_next.mp h
  obtain ⟨i, hi, h⟩ := withReg_eq_next.mp h
  split at h
  · rename_i h7
    cases h
    exact .nextBit sh b i hs hb hi h7
  · rename_i h7
    obtain ⟨j, hj, h⟩ := withReg_eq_next.mp h
    split at h
    · cases h
    · rename_i h4
      split at h
      · rename_i h4'
        cases h
        exact .nextByte sh b i j hs hb hi h7 hj h4'
      · rename_i h4'
        have : j = 4 := by bv_omega
        cases h
        subst this
        exact .lastByte sh b i hs hb hi h7 hj

/-- What `VALIDATE` can do (rule R92). -/
inductive ValidateTo (s : State) : State → Prop where
  | accepts (d : Payload) (c : Byte) (hf : s.frame = ⟨some d.b0, some d.b1, some d.b2, some d.b3, some c⟩) (hc : d.sum = c) :
      ValidateTo s (s.okEntry d)
  | rejects (d : Payload) (c : Byte) (hf : s.frame = ⟨some d.b0, some d.b1, some d.b2, some d.b3, some c⟩) (hc : d.sum ≠ c) :
      ValidateTo s (s.failEntry .checksumMismatch)

theorem validate_next {s t : State} (h : validate s = .next t) : ValidateTo s t := by
  obtain ⟨d0, h0, h⟩ := withReg_eq_next.mp h
  obtain ⟨d1, h1, h⟩ := withReg_eq_next.mp h
  obtain ⟨d2, h2, h⟩ := withReg_eq_next.mp h
  obtain ⟨d3, h3, h⟩ := withReg_eq_next.mp h
  obtain ⟨c, hc, h⟩ := withReg_eq_next.mp h
  have hf : s.frame = ⟨some d0, some d1, some d2, some d3, some c⟩ := by rw [← h0, ← h1, ← h2, ← h3, ← hc]
  split at h
  · rename_i hw
    cases h
    exact .accepts ⟨d0, d1, d2, d3⟩ c hf hw
  · rename_i hw
    cases h
    exact .rejects ⟨d0, d1, d2, d3⟩ c hf hw

/-- What the block's step can do, by sequencer position (rule R99). -/
inductive BlockStepTo (P : Config.Params) (s : State) : State → Prop where
  | waits (hb : s.busy = false) : BlockStepTo P s s
  | drives (hp : s.phase = .startPulse) (hs : s.sub = 0) : BlockStepTo P s { s.lineDriveHigh with sub := 1 }
  | startDelay (hp : s.phase = .startPulse) (hs : s.sub = 1) :
      BlockStepTo P s (({ s with phase := .awaitAckHigh, sub := 0 }).waitReset.issueDelay Config.startDelay)
  | ackHigh (t : State) (hp : s.phase = .awaitAckHigh) (hs : s.sub = 0) (h : PollStepTo P .high afterAckHigh s t) :
      BlockStepTo P s t
  | ackLow (t : State) (hp : s.phase = .awaitAckLow) (hs : s.sub = 0) (h : PollStepTo P .low afterAckLow s t) :
      BlockStepTo P s t
  | rise (t : State) (hp : s.phase = .readByte) (hs : s.sub = 0) (h : PollStepTo P .high afterRise s t) : BlockStepTo P s t
  | midDelay (hp : s.phase = .readByte) (hs : s.sub = 1) :
      BlockStepTo P s (({ s with sub := 2 }).issueDelay Config.sampleDelay)
  | sample (l : Level) (hp : s.phase = .readByte) (hs : s.sub = 2) (ha : s.lineAnswer = .level l) :
      BlockStepTo P s ({ s.lineRead with bit := some l.bit, sub := 3 }).waitReset
  | sampleError (c : LineCause) (hp : s.phase = .readByte) (hs : s.sub = 2) (ha : s.lineAnswer = .err c) :
      BlockStepTo P s (s.lineRead.failEntry (.lineError c))
  | fall (t : State) (hp : s.phase = .readByte) (hs : s.sub = 3) (h : PollStepTo P .low foldNext s t) : BlockStepTo P s t
  | validates (t : State) (hp : s.phase = .validate) (hs : s.sub = 0) (h : ValidateTo s t) : BlockStepTo P s t

theorem atSubZero_next {k : State → Out} {s t : State} (h : atSubZero k s = .next t) : s.sub = 0 ∧ k s = .next t := by
  unfold atSubZero at h
  split at h
  · exact ⟨‹_›, h⟩
  · cases h

theorem blockStep_next {P : Config.Params} {s t : State} (h : blockStep P s = .next t) : BlockStepTo P s t := by
  unfold blockStep at h
  split at h
  · cases h; exact .waits (by simp [State.busy, *, Phase.busy])
  · rename_i hp
    unfold startPulseStep at h
    split at h
    · cases h; exact .drives hp ‹_›
    · split at h
      · cases h; exact .startDelay hp ‹_›
      · cases h
  · rename_i hp
    exact .ackHigh t hp (atSubZero_next h).1 (pollStep_next (atSubZero_next h).2)
  · rename_i hp
    exact .ackLow t hp (atSubZero_next h).1 (pollStep_next (atSubZero_next h).2)
  · rename_i hp
    unfold readByteStep at h
    split at h
    · exact .rise t hp ‹_› (pollStep_next h)
    · split at h
      · cases h; exact .midDelay hp ‹_›
      · split at h
        · unfold sampleStep sampleLevel at h
          cases ha : s.lineAnswer with
          | level l => rw [ha] at h; cases h; exact .sample l hp ‹_› ha
          | err c => rw [ha] at h; cases h; exact .sampleError c hp ‹_› ha
        · exact .fall t hp (by bv_omega) (pollStep_next h)
  · rename_i hp
    exact .validates t hp (atSubZero_next h).1 (validate_next (atSubZero_next h).2)
  · cases h; exact .waits (by simp [State.busy, *, Phase.busy])
  · cases h; exact .waits (by simp [State.busy, *, Phase.busy])

/-- What one input can do (rules R98, R117, R126, R131). -/
inductive RunInputTo (i : Input) (s : State) : State → Prop where
  | reset (m : Move) (hi : i = .turn { reset := true, move := m }) : RunInputTo i s s.resetBlock
  | block (t : State) (hi : i = .turn { reset := false, move := .block }) (he : s.blockEnabled = true)
      (h : BlockStepTo Config.hw s t) : RunInputTo i s t
  | blockWaits (hi : i = .turn { reset := false, move := .block }) (he : s.blockEnabled = false) : RunInputTo i s s
  | timeSource (hi : i = .turn { reset := false, move := .timeSource }) : RunInputTo i s s.timeTurn
  | lineUser (on : Bool) (hi : i = .turn { reset := false, move := .lineUser on }) :
      RunInputTo i s { s with lineShared := on }
  | accept (w : Word) (hi : i = .turn { reset := false, move := .host w }) (hw : decode w = .ok .readFrame)
      (hb : s.busy = false) : RunInputTo i s s.accept
  | abort (w : Word) (hi : i = .turn { reset := false, move := .host w }) (hw : decode w = .ok .abort)
      (hb : s.busy = true) : RunInputTo i s s.abortRead
  | ignored (w : Word) (hi : i = .turn { reset := false, move := .host w }) : RunInputTo i s s
  | harness (w : Word) (j : Instr) (t : State) (hi : i = .harness w) (hw : decode w = .ok j) (h : exec j s = .next t) :
      RunInputTo i s t

theorem hostWrite_next {w : Word} {s t : State} (h : hostWrite w s = .next t) :
    (decode w = .ok .readFrame ∧ s.busy = false ∧ t = s.accept) ∨
    (decode w = .ok .abort ∧ s.busy = true ∧ t = s.abortRead) ∨ t = s := by
  unfold hostWrite at h
  split at h
  · rename_i j hw
    split at h
    · rename_i hc
      cases j <;> simp only [Instr.isHostCommand, Bool.false_eq_true] at hc
      · simp only [exec, execReadFrame] at h
        split at h <;> cases h
        · exact .inr (.inr rfl)
        · rename_i hb
          exact .inl ⟨hw, by simpa using hb, rfl⟩
      · simp only [exec, execAbort] at h
        split at h <;> cases h
        · rename_i hb
          exact .inr (.inl ⟨hw, hb, rfl⟩)
        · exact .inr (.inr rfl)
    · cases h; exact .inr (.inr rfl)
  · cases h; exact .inr (.inr rfl)

theorem runInput_next {i : Input} {s t : State} (h : runInput i s = .next t) : RunInputTo i s t := by
  unfold runInput at h
  split at h
  · rename_i u
    obtain ⟨r, m⟩ := u
    simp only at h
    split at h
    · rename_i hr
      cases h
      exact .reset m (by rw [show r = true from hr])
    · rename_i hr
      have hr : r = false := by simpa using hr
      subst hr
      split at h
      · cases h
      · unfold runMove at h
        split at h
        · unfold blockTurn at h
          split at h
          · exact .block t rfl ‹_› (blockStep_next h)
          · rename_i he
            cases h
            exact .blockWaits rfl (by simpa using he)
        · cases h; exact .timeSource rfl
        · rename_i w
          rcases hostWrite_next h with ⟨hw, hb, rfl⟩ | ⟨hw, hb, rfl⟩ | rfl
          · exact .accept w rfl hw hb
          · exact .abort w rfl hw hb
          · exact .ignored w rfl
        · cases h; exact .lineUser _ rfl
  · rename_i w
    split at h
    · cases h
    · unfold harnessRun at h
      split at h
      · exact .harness w _ t rfl ‹_› h
      · cases h

/-- Everything a step can do: it takes the next input and runs it. -/
theorem step_next {s t : State} (h : step s = .next t) : RunInputTo s.nextInput s.takeInput t := runInput_next h

end Sys2Proof.Machine
end

