-- ==== Sys2Proof/Tests/Slice0.lean ====
section
/-! SUPPORT. The model's own tests, with expected results from spec/95_test_vectors.md, and for each statement of
Certificates/Slice0/Obligations.lean that has hypotheses a state and operands that meet them together. -/

open Sys2Proof Sys2Proof.Machine

namespace Sys2Proof.Tests

/-! ### Helpers -/

/-- The outcome is a next state with the property. -/
def passes (o : Out) (p : State → Bool) : Bool :=
  match o with
  | .next t => p t
  | .fault _ => false
  | .refused _ => false

theorem next_of_passes {o : Out} {p : State → Bool} (h : passes o p = true) : ∃ t, o = .next t ∧ p t = true := by
  cases o with
  | next t => exact ⟨t, rfl, h⟩
  | fault r => exact absurd h (by simp [passes])
  | refused r => exact absurd h (by simp [passes])

/-- The line answers high. -/
def hi : LineAnswer := .level .high

/-- The line answers low. -/
def lo : LineAnswer := .level .low

/-- A line error. -/
def bad : LineAnswer := .err { tag := 7 }

/-- A harness state of program P2: READ_BYTE at the first bit of the first byte, nothing outstanding. -/
def busyState : State :=
  { State.reset with
    phase := .readByte, byteIdx := some 0, bitIdx := some 0, shift := some 0, pollCnt := some 0, pdly := some false }

/-- That state with a line script. -/
def onLine (as : List LineAnswer) : State := { busyState with line := as }

/-- The state after P3's read: `Ok([0x32, 0x00, 0x1B, 0x00])`. -/
def doneState : State :=
  { State.reset with
    phase := .done, resultValid := true, outData := { b0 := 0x32, b1 := 0x00, b2 := 0x1B, b3 := 0x00 } }

/-- A state after a failed read with the given status and cause. -/
def failedState (status : BitVec 2) (cause : Option LineCause) : State :=
  { State.reset with phase := .failed, resultValid := true, status := status, cause := cause }

/-- VALIDATE is next, the frame of P3 in the buffer with the checksum `c`. -/
def validateState (c : Byte) : State :=
  { State.reset with
    phase := .validate
    frame := { d0 := some 0x32, d1 := some 0x00, d2 := some 0x1B, d3 := some 0x00, csum := some c } }

/-- A `Delay(35)` is outstanding. -/
def suspendedState : State := { busyState with sub := 2, susp := true, trace := [.delay 35] }

/-- `s` with the next input `i`. -/
def next (i : Input) (s : State) : State := { s with inputs := [i] }

/-- A bit whose two waits find their level at once. -/
def quickBit (b : BitVec 1) : BitScript := { rise := 1, bit := b, fall := 1 }

/-- The payload of the source's example. -/
def examplePayload : Payload := { b0 := 0x32, b1 := 0x00, b2 := 0x1B, b3 := 0x00 }

/-- `S([0x32, 0x00, 0x1B, 0x00, c])`. -/
def exampleScript (c : Byte) : FrameScript :=
  { ackHigh := 1, ackLow := 1,
    bits := (bitsOf 0x32 ++ bitsOf 0x00 ++ bitsOf 0x1B ++ bitsOf 0x00 ++ bitsOf c).map quickBit }

/-! ### Well-formedness (rules R64 and R66) -/

theorem test_wf_refuses_delay_zero : (Instr.delay 0).wf = false := by decide

theorem test_wf_refuses_slots : (Instr.readByte 5).wf = false ∧ (Instr.readByte 7).wf = false := by decide

theorem test_wf_accepts_bounds :
    (Instr.delay 1).wf = true ∧ (Instr.delay 4095).wf = true ∧ (Instr.readByte 0).wf = true ∧
    (Instr.readByte 4).wf = true := by decide

/-! ### Decoding: words written out from rules R62 to R66, op in bits 15:12, arg in bits 11:0 -/

theorem test_decode_drive_high : decode 0b0001_000000000000 = .ok .driveHigh := by decide

theorem test_decode_read_level : decode 0b0010_000000000000 = .ok .readLevel := by decide

theorem test_decode_delay_35 : decode 0b0011_000000100011 = .ok (.delay 35) := by decide

theorem test_decode_delay_asymmetric : decode 0b0011_100000000110 = .ok (.delay 2054) := by decide

theorem test_decode_poll_low : decode 0b0100_000000000000 = .ok .pollLow := by decide

theorem test_decode_poll_high : decode 0b0100_000000000001 = .ok .pollHigh := by decide

theorem test_decode_sample_bit : decode 0b0101_000000000000 = .ok .sampleBit := by decide

theorem test_decode_read_byte_3 : decode 0b0110_000000000011 = .ok (.readByte 3) := by decide

theorem test_decode_read_byte_4 : decode 0b0110_000000000100 = .ok (.readByte 4) := by decide

theorem test_decode_validate : decode 0b0111_000000000000 = .ok .validate := by decide

theorem test_decode_read_frame : decode 0b1000_000000000000 = .ok .readFrame := by decide

theorem test_decode_abort : decode 0b1001_000000000000 = .ok .abort := by decide

/-- The reserved words of the table in 95_test_vectors.md section 2.6. -/
theorem test_decode_reserved :
    decode 0x3000 = .error .delayZero ∧ decode 0x4002 = .error .pollArg ∧ decode 0x5001 = .error .argNotZero ∧
    decode 0x6005 = .error .slot ∧ decode 0x8001 = .error .argNotZero ∧ decode 0x0000 = .error .opcode ∧
    decode 0xA000 = .error .opcode ∧ decode 0xFFFF = .error .opcode := by decide

theorem test_decode_table_word : decodeTableWord 16 0x3023 = some (.delay 35) := by decide

/-- `DELAY 35` in decimal and in hexadecimal, with a comment (rule R72). -/
theorem test_assemble_delay :
    assembleLine ['D', 'E', 'L', 'A', 'Y', ' ', '3', '5', ' ', ';', 'x'] = .ok (some (.delay 35)) ∧
    assembleLine ['D', 'E', 'L', 'A', 'Y', ' ', '0', 'x', '2', '3'] = .ok (some (.delay 35)) := by decide

/-- R72: a decimal operand with blanks around it, and lines without an operation. -/
theorem test_assemble_blanks :
    assembleLine [' ', 'R', 'E', 'A', 'D', '_', 'B', 'Y', 'T', 'E', '\t', '4', ' ', ';', '5'] = .ok (some (.readByte 4)) ∧
    assembleLine [' ', '\t', ';', 'A', 'B', 'O', 'R', 'T'] = .ok none ∧ assembleLine [] = .ok none := by decide

/-- R72: the text of DELAY 35 with its operand in hexadecimal. -/
theorem test_asm_text : asmText (.delay 35) = ['D', 'E', 'L', 'A', 'Y', ' ', '0', 'x', '0', '2', '3'] := by decide

/-- R72: the operand 4095 in decimal digits. -/
theorem test_decimal_text : decimalText 4095 = ['4', '0', '9', '5'] ∧ decimalText 35 = ['3', '5'] ∧ decimalText 0 = ['0'] := by
  decide

/-! ### One step of each operation, fetched from its table word -/

/-- X2: a drive error is recorded in the trace and nowhere else. -/
theorem test_drive_high_ignores_error :
    passes (exec .driveHigh { busyState with drive := [.err { tag := 1 }] }) (fun t =>
      t.trace == [.drive .high (.err { tag := 1 })] && t.phase == .readByte && t.cause == none) = true := by decide

/-- X4. -/
theorem test_read_level_low :
    passes (exec .readLevel (onLine [lo])) (fun t => t.bit == some 0 && t.trace == [.read lo]) = true := by decide

/-- X5. -/
theorem test_read_level_error :
    passes (exec .readLevel (onLine [bad])) (fun t => t.bit == none && t.status == 1 && t.cause == some { tag := 7 }) = true := by
  decide

/-- X6. -/
theorem test_delay_35 :
    passes (exec (.delay 35) busyState) (fun t => t.trace == [.delay 35, .delayDone] && !t.susp) = true := by decide

/-- W2. -/
theorem test_poll_high_second_check :
    passes (exec .pollHigh (onLine [lo, hi])) (fun t =>
      t.pollCnt == some 2 && t.trace == [.read lo, .delay 1, .delayDone, .read hi] && t.phase == .readByte) = true := by decide

/-- W7. -/
theorem test_poll_high_line_error :
    passes (exec .pollHigh (onLine [lo, bad])) (fun t =>
      t.pollCnt == some 2 && t.status == 1 && t.phase == .failed && readCount t.trace == 2) = true := by decide

/-- W9. -/
theorem test_poll_low_third_check :
    passes (exec .pollLow (onLine [hi, hi, lo, hi])) (fun t =>
      t.pollCnt == some 3 && delaysOf 1 t.trace == 2 && t.line == [hi]) = true := by decide

/-- W10. -/
theorem test_poll_low_times_out :
    passes (exec .pollLow (onLine (List.replicate 100 hi))) (fun t =>
      t.status == 2 && t.pollCnt == some 100 && delaysOf 1 t.trace == 100 && readCount t.trace == 100) = true := by
  decide +kernel

/-- B3. -/
theorem test_sample_bit_one :
    passes (exec .sampleBit (onLine [lo, hi, hi, hi, lo])) (fun t =>
      t.bit == some 1 && t.pollCnt == some 2 && t.trace == [.read lo, .delay 1, .delayDone, .read hi, .delay 35, .delayDone,
        .read hi, .read hi, .delay 1, .delayDone, .read lo]) = true := by decide

/-- B4. -/
theorem test_sample_bit_error_at_sample :
    passes (exec .sampleBit (onLine [hi, bad])) (fun t => t.bit == none && t.status == 1 && t.phase == .failed) = true := by
  decide

/-- Y1, E5: the bits 1,0,1,0,1,0,1,0 in read order are 0xAA. -/
theorem test_read_byte_aa :
    passes (exec (.readByte 0) (onLine [hi, hi, lo, hi, lo, lo, hi, hi, lo, hi, lo, lo, hi, hi, lo, hi, lo, lo, hi, hi, lo,
      hi, lo, lo])) (fun t =>
        t.frame.d0 == some 0xAA && t.shift == some 0xAA && t.bit == some 0 && t.bitIdx == some 7 && t.pollCnt == some 1 &&
        readCount t.trace == 24) = true := by decide +kernel

/-- Y6: the rise wait of bit 5 times out. -/
theorem test_read_byte_timeout :
    passes (exec (.readByte 0) (onLine ((List.replicate 5 [hi, hi, lo]).flatten ++ List.replicate 100 lo))) (fun t =>
      t.frame.d0 == none && t.shift == some 0x1F && t.status == 2 && t.bitIdx == some 5 && readCount t.trace == 115) = true := by
  decide +kernel

/-- F3: 4 times 0xFF wraps to 0xFC. -/
theorem test_validate_wraps :
    passes (exec .validate { validateState 0xFC with
      frame := { d0 := some 0xFF, d1 := some 0xFF, d2 := some 0xFF, d3 := some 0xFF, csum := some 0xFC } }) (fun t =>
        t.phase == .done && t.outData.word == 0xFFFFFFFF && t.statusByte == 0x02) = true := by decide

/-- F7: one flipped bit in the checksum. -/
theorem test_validate_mismatch :
    passes (exec .validate (validateState 0x4C)) (fun t =>
      t.phase == .failed && t.status == 3 && t.outData.word == 0 && t.statusByte == 0x0E) = true := by decide

/-- H1. -/
theorem test_read_frame_clears_the_result :
    passes (exec .readFrame doneState) (fun t =>
      t.phase == .startPulse && !t.resultValid && t.outData == Payload.zero && t.statusByte == 0x01) = true := by decide

/-- H2. -/
theorem test_read_frame_while_busy :
    passes (exec .readFrame busyState) (fun t => t == busyState) = true := by decide

/-- H4. -/
theorem test_abort_drops_the_delay :
    passes (exec .abort suspendedState) (fun t => t.phase == .idle && !t.susp && !t.resultValid && t.sub == 0) = true := by
  decide

/-- H3. -/
theorem test_abort_when_done : passes (exec .abort doneState) (fun t => t == doneState) = true := by decide

/-- H5 and H6: other words at the host port change nothing. -/
theorem test_host_port_ignores :
    passes (hostWrite 0xA000 busyState) (fun t => t == busyState) = true ∧
    passes (hostWrite 0x1000 busyState) (fun t => t == busyState) = true := by decide

/-- H7. -/
theorem test_reset_turn :
    passes (step (next (.turn { reset := true, move := .block }) suspendedState)) (fun t =>
      t.phase == .idle && !t.susp && t.statusByte == 0x00 && t.bitIdx == none && t.trace == [.delay 35]) = true := by decide

/-- The row `SAMPLE_BIT` of the opcode table runs as the first operation after reset. -/
theorem test_fetch_sample_bit :
    passes (step (State.reset.withFetchWord 16 0x5000)) (fun _ => true) = true := by decide

/-- The row `READ_FRAME` of the opcode table runs as the first operation after reset. -/
theorem test_fetch_read_frame :
    passes (step (State.reset.withFetchWord 16 0x8000)) (fun t => t.phase == .startPulse && t.trace == [.accept]) = true := by
  decide

/-- N1: 165 block steps for the shortest read, of the source's frame E1. -/
theorem test_shortest_read :
    passes (blockSteps Config.hw 165 ({ State.reset with line := (exampleScript 0x4D).answers, inputs := [] }).accept) (fun t =>
      t.phase == .done && t.dataWord == 0x32001B00 && t.statusByte == 0x02) = true := by decide +kernel

/-! ### The hypotheses of the statements are met -/

/-- DecodeOfEncodeIsTheInstruction: an operand at each end of its range. -/
theorem witness_well_formed :
    (Instr.delay 1).wf = true ∧ (Instr.delay 4095).wf = true ∧ (Instr.readByte 0).wf = true ∧
    (Instr.readByte 4).wf = true ∧ Instr.abort.wf = true := by decide

/-- AssembledTextIsTheInstruction: no blanks but the one gap, and each blank before, between and after. -/
theorem witness_assembler :
    (Instr.delay 4095).wf = true ∧ ([] : List Char).all isBlank = true ∧ [' '].all isBlank = true ∧ [' '] ≠ [] ∧
    [' ', '\t', '\r'].all isBlank = true ∧ [' ', '\t', '\r'] ≠ [] := by decide

/-- ReservedWordsAreRefusedByName, first clause and last: reserved opcodes at the ends of their range. -/
theorem witness_reserved_opcode :
    opOf 0x0000 = 0x0 ∧ 0xA ≤ opOf 0xA000 ∧ 0xA ≤ opOf 0xFFFF ∧ decode 0xA000 = .error .opcode := by decide

/-- ReservedWordsAreRefusedByName, third clause: each operation without operand. -/
theorem witness_reserved_arg :
    (opOf 0x1001 = 0x1 ∧ argOf 0x1001 ≠ 0) ∧ (opOf 0x2FFF = 0x2 ∧ argOf 0x2FFF ≠ 0) ∧ (opOf 0x5001 = 0x5 ∧ argOf 0x5001 ≠ 0) ∧
    (opOf 0x7800 = 0x7 ∧ argOf 0x7800 ≠ 0) ∧ (opOf 0x8001 = 0x8 ∧ argOf 0x8001 ≠ 0) ∧
    (opOf 0x9FFF = 0x9 ∧ argOf 0x9FFF ≠ 0) := by decide

/-- ReservedWordsAreRefusedByName, fourth clause: the first and the last word of its range. -/
theorem witness_reserved_poll : (0x4002 : Word) ≤ 0x4002 ∧ (0x4002 : Word) ≤ 0x4FFF ∧ (0x4FFF : Word) ≤ 0x4FFF := by decide

/-- ReservedWordsAreRefusedByName, fifth clause: the first and the last word of its range. -/
theorem witness_reserved_slot : (0x6005 : Word) ≤ 0x6005 ∧ (0x6005 : Word) ≤ 0x6FFF ∧ (0x6FFF : Word) ≤ 0x6FFF := by decide

/-- StepRunsTheHarnessWord. -/
theorem witness_harness_word :
    (next (.harness 0x5000) busyState).inputs = .harness 0x5000 :: [] ∧ decode 0x5000 = .ok .sampleBit ∧
    (next (.harness 0x5000) busyState).lineConflict = false := by decide

/-- StepRunsTheHostCommand: both commands. -/
theorem witness_host_command :
    ((next (moveTurn (.host 0x8000)) doneState).inputs = moveTurn (.host 0x8000) :: [] ∧ decode 0x8000 = .ok .readFrame ∧
      Instr.readFrame.isHostCommand = true ∧ (next (moveTurn (.host 0x8000)) doneState).lineConflict = false) ∧
    ((next (moveTurn (.host 0x9000)) busyState).inputs = moveTurn (.host 0x9000) :: [] ∧ decode 0x9000 = .ok .abort ∧
      Instr.abort.isHostCommand = true ∧ (next (moveTurn (.host 0x9000)) busyState).lineConflict = false) := by decide

/-- HostPortTakesTwoWordsOnly: the two commands, a word next to each, an internal word and a reserved word. -/
theorem witness_host_words :
    ∀ w ∈ [(0x8000 : Word), 0x9000, 0x7FFF, 0x8001, 0x8FFF, 0x9001, 0x1000, 0xA000],
      (next (moveTurn (.host w)) busyState).inputs = moveTurn (.host w) :: [] ∧
      (next (moveTurn (.host w)) busyState).lineConflict = false := fun _ _ => ⟨rfl, rfl⟩

/-- BlockTurnRunsTheBlockStep: enabled, suspended, idle. -/
theorem witness_block_turn :
    ∀ s ∈ [busyState, suspendedState, State.reset],
      (next (moveTurn .block) s).inputs = moveTurn .block :: [] ∧ (next (moveTurn .block) s).lineConflict = false := by decide

/-- TimeSourceCompletesTheDelay: with a delay outstanding and without one. -/
theorem witness_time_turn :
    ∀ s ∈ [suspendedState, busyState],
      (next (moveTurn .timeSource) s).inputs = moveTurn .timeSource :: [] ∧
      (next (moveTurn .timeSource) s).lineConflict = false := by decide

/-- ResetTurnResetsTheBlock. -/
theorem witness_reset_turn :
    (next (.turn { reset := true, move := .block }) suspendedState).inputs =
      .turn { reset := true, move := .block } :: [] := by decide

/-- SharedLineIsRefused. -/
theorem witness_shared_line :
    busyState.busy = true ∧ (next (moveTurn .block) { busyState with lineShared := true }).lineShared = true ∧
    ∀ m, (next (moveTurn .block) { busyState with lineShared := true }).nextInput ≠ .turn { reset := true, move := m } :=
  ⟨by decide, by decide, fun m h => absurd h (by simp [next, moveTurn, State.nextInput])⟩

/-- DriveHighAsksTheLineOnce, and every statement about an enabled block. -/
theorem witness_enabled : busyState.busy = true ∧ busyState.susp = false := by decide

/-- ReadLevelSamplesOnce: each clause. -/
theorem witness_read_level :
    ((onLine [hi]).busy = true ∧ (onLine [hi]).susp = false ∧ (onLine [hi]).lineAnswer = .level .high) ∧
    ((onLine [lo]).busy = true ∧ (onLine [lo]).susp = false ∧ (onLine [lo]).lineAnswer = .level .low) ∧
    ((onLine [bad]).busy = true ∧ (onLine [bad]).susp = false ∧ (onLine [bad]).lineAnswer = .err { tag := 7 }) := by decide

/-- DelaySuspendsForItsCount: both ends of the range. -/
theorem witness_delay :
    busyState.busy = true ∧ busyState.susp = false ∧ (1 : BitVec 12) ≠ 0 ∧ (4095 : BitVec 12) ≠ 0 := by decide

/-- PollFindsItsLevelAtCheckK: the first check and the last of the budget, both levels. -/
theorem witness_poll_found :
    ∀ T ∈ [Level.high, Level.low], ∀ k ∈ [1, 100],
      (onLine (waitAnswers T k)).busy = true ∧ (onLine (waitAnswers T k)).susp = false ∧ 1 ≤ k ∧ k ≤ 100 ∧
      (onLine (waitAnswers T k)).line = waitAnswers T k ++ [] :=
  fun _ _ k hk => ⟨rfl, rfl, by simp at hk; omega, by simp at hk; omega, (List.append_nil _).symm⟩

/-- PollRaisesALineErrorAtOnce: at the first check and at the last of the budget. -/
theorem witness_poll_error :
    ∀ T ∈ [Level.high, Level.low], ∀ k ∈ [1, 100],
      (onLine (List.replicate (k - 1) (.level T.other) ++ [bad])).busy = true ∧
      (onLine (List.replicate (k - 1) (.level T.other) ++ [bad])).susp = false ∧ 1 ≤ k ∧ k ≤ 100 ∧
      (onLine (List.replicate (k - 1) (.level T.other) ++ [bad])).line =
        List.replicate (k - 1) (.level T.other) ++ .err { tag := 7 } :: [] :=
  fun _ _ k hk => ⟨rfl, rfl, by simp at hk; omega, by simp at hk; omega, rfl⟩

/-- PollTimesOutAfterTheBudget: the budgets 1, 100 and 127, either parameter. -/
theorem witness_poll_timeout :
    (∀ b ∈ [1, 100, 127], ∀ d ∈ [true, false], (Config.Params.mk b d).wf = true) ∧
    ∀ (T : Level) (b : Nat), (onLine (List.replicate b (.level T.other))).susp = false ∧
      (onLine (List.replicate b (.level T.other))).busy = true ∧
      (onLine (List.replicate b (.level T.other))).line = List.replicate b (.level T.other) ++ [] :=
  ⟨by decide, fun _ _ => ⟨rfl, rfl, (List.append_nil _).symm⟩⟩

/-- WaitCountsAreThoseOfTheTable, StepMachineRunsTheSequentialProgram: the ends of the range of budgets. -/
theorem witness_params :
    (Config.Params.mk 1 true).wf = true ∧ (Config.Params.mk 127 false).wf = true ∧ Config.hw.wf = true ∧
    State.reset.busy = false ∧ State.reset.susp = false := by decide

/-- PollFrame: a wait that succeeds and one that fails. -/
theorem witness_poll_frame :
    (∃ t, exec (pollOf .high) (onLine [lo, hi]) = .next t ∧ (t.phase == .readByte) = true) ∧
    (∃ t, exec (pollOf .low) (onLine [hi, bad]) = .next t ∧ (t.phase == .failed) = true) :=
  ⟨next_of_passes (by decide), next_of_passes (by decide)⟩

/-- SampleBitReadsTheLevelAtTheSample: both bits, waits at the first check and at the last. -/
theorem witness_sample_bit :
    ∀ x ∈ [BitScript.mk 1 0 100, BitScript.mk 100 1 1],
      (onLine x.answers).busy = true ∧ (onLine x.answers).susp = false ∧ x.inBudget = true ∧
      (onLine x.answers).line = x.answers ++ [] := by decide +kernel

/-- SampleBitFrame: a bit read that succeeds and one that fails. -/
theorem witness_sample_bit_frame :
    (∃ t, exec .sampleBit (onLine [hi, lo, lo]) = .next t ∧ (t.phase == .readByte) = true) ∧
    (∃ t, exec .sampleBit (onLine [hi, bad]) = .next t ∧ (t.phase == .failed) = true) :=
  ⟨next_of_passes (by decide), next_of_passes (by decide)⟩

/-- The events answer the wave, as a Boolean. -/
def followsWave (wave : Nat → Level) : Nat → List Event → Bool
  | _, [] => true
  | t, .read a :: es => a == .level (wave t) && followsWave wave t es
  | t, .delay n :: es => followsWave wave (t + n) es
  | t, .accept :: es => followsWave wave t es
  | t, .drive _ _ :: es => followsWave wave t es
  | t, .delayDone :: es => followsWave wave t es
  | t, .result _ _ _ :: es => followsWave wave t es
  | t, .abort :: es => followsWave wave t es

theorem answersFrom_of_followsWave {wave : Nat → Level} {t : Nat} {es : List Event} (h : followsWave wave t es = true) :
    answersFrom wave t es := by
  induction es generalizing t with
  | nil => trivial
  | cons e es ih =>
    cases e with
    | read a =>
      simp only [followsWave, Bool.and_eq_true, beq_iff_eq] at h
      exact ⟨h.1, ih h.2⟩
    | accept => exact ih (t := t) h
    | drive l r => exact ih (t := t) h
    | delay n => exact ih (t := t + n) h
    | delayDone => exact ih (t := t) h
    | result st c d => exact ih (t := t) h
    | abort => exact ih (t := t) h

/-- The bit that a pulse reads as, with the line's answers to it. -/
def pulseState (rise fall : Nat) (l : Level) : State := onLine (waitAnswers .high rise ++ [.level l] ++ waitAnswers .low fall)

/-- PulseLongerThanTheSampleDelayIsAOne: T6, T7, the shortest pulse, the last rise, the longest pulse. -/
theorem witness_pulse :
    ∀ p ∈ [(0, 35, pulseState 1 1 .low), (0, 36, pulseState 1 2 .high), (0, 1, pulseState 1 1 .low),
        (99, 35, pulseState 100 1 .low), (0, 134, pulseState 1 100 .high)],
      p.2.2.busy = true ∧ p.2.2.susp = false ∧ p.1 ≤ 99 ∧ 1 ≤ p.2.1 ∧ p.2.1 ≤ 134 ∧
      ∃ t es, exec .sampleBit p.2.2 = .next t ∧ t.trace = p.2.2.trace ++ es ∧ answersFrom (pulse p.1 p.2.1) 0 es := by
  have key : ∀ p ∈ [(0, 35, pulseState 1 1 .low), (0, 36, pulseState 1 2 .high), (0, 1, pulseState 1 1 .low),
        (99, 35, pulseState 100 1 .low), (0, 134, pulseState 1 100 .high)],
      (p.2.2.busy = true ∧ p.2.2.susp = false ∧ p.1 ≤ 99 ∧ 1 ≤ p.2.1 ∧ p.2.1 ≤ 134 ∧ p.2.2.trace = []) ∧
      passes (exec .sampleBit p.2.2) (fun t => followsWave (pulse p.1 p.2.1) 0 t.trace) = true := by decide +kernel
  intro p hp
  obtain ⟨⟨h1, h2, h3, h4, h5, h6⟩, hk⟩ := key p hp
  obtain ⟨t, ht, hw⟩ := next_of_passes hk
  exact ⟨h1, h2, h3, h4, h5, t, t.trace, ht, by rw [h6, List.nil_append], answersFrom_of_followsWave hw⟩

/-- FoldIsMostSignificantBitFirst: no bit, seven bits, eight bits. -/
theorem witness_fold :
    ([] : List (BitVec 1)).length ≤ 8 ∧ ([] : List (BitVec 1)).length < 8 ∧
    (List.replicate 7 (1 : BitVec 1)).length < 8 ∧ (List.replicate 8 (1 : BitVec 1)).length = 8 := by decide

/-- ReadByteAssemblesTheByte: the first and the last slot, E5's byte and 0xFF. -/
theorem witness_read_byte :
    ∀ d ∈ [(0xAA : Byte), 0xFF], ∀ slot ∈ [(0 : BitVec 3), 4],
      (onLine (((bitsOf d).map quickBit).map BitScript.answers).flatten).busy = true ∧
      (onLine (((bitsOf d).map quickBit).map BitScript.answers).flatten).susp = false ∧ slot ≤ 4 ∧
      ((bitsOf d).map quickBit).all BitScript.inBudget = true ∧ ((bitsOf d).map quickBit).map BitScript.bit = bitsOf d ∧
      (onLine (((bitsOf d).map quickBit).map BitScript.answers).flatten).line =
        (((bitsOf d).map quickBit).map BitScript.answers).flatten ++ [] := by decide +kernel

/-- ReadByteFailsFast: a line error at the second bit's sample, and a timeout at the first rise; slots 0 and 4. -/
theorem witness_read_byte_fails :
    ((onLine [hi, hi, lo, hi, bad]).busy = true ∧ (onLine [hi, hi, lo, hi, bad]).susp = false ∧ (0 : BitVec 3) ≤ 4 ∧
      ∃ t, exec (.readByte 0) (onLine [hi, hi, lo, hi, bad]) = .next t ∧ (t.busy == false && t.status == 1) = true) ∧
    ((onLine (List.replicate 100 lo)).busy = true ∧ (onLine (List.replicate 100 lo)).susp = false ∧ (4 : BitVec 3) ≤ 4 ∧
      ∃ t, exec (.readByte 4) (onLine (List.replicate 100 lo)) = .next t ∧ (t.busy == false && t.status == 2) = true) :=
  ⟨⟨by decide, by decide, by decide, next_of_passes (by decide +kernel)⟩,
    ⟨by decide +kernel, by decide +kernel, by decide, next_of_passes (by decide +kernel)⟩⟩

/-- ReadByteFrame: a byte read that succeeds, one that fails, and one turned away. -/
theorem witness_read_byte_frame :
    (∃ t, exec (.readByte 4) (onLine (((bitsOf 0x80).map quickBit).map BitScript.answers).flatten) = .next t ∧
      (t.frame.csum == some 0x80) = true) ∧
    (∃ t, exec (.readByte 0) (onLine [hi, bad]) = .next t ∧ (t.phase == .failed) = true) ∧
    (∃ t, exec (.readByte 0) suspendedState = .next t ∧ (t == suspendedState) = true) :=
  ⟨next_of_passes (by decide +kernel), next_of_passes (by decide), next_of_passes (by decide)⟩

/-- ValidateChecksTheWrappingSum: a sum that equals the checksum and one that does not. -/
theorem witness_validate :
    ∀ c ∈ [(0x4D : Byte), 0x4C],
      (validateState c).busy = true ∧ (validateState c).susp = false ∧
      (validateState c).frame = {
        d0 := some examplePayload.b0, d1 := some examplePayload.b1, d2 := some examplePayload.b2,
        d3 := some examplePayload.b3, csum := some c } := by decide

/-- The frame buffer with its first bytes written only. -/
def partialFrame (n : Nat) : Frame :=
  { d0 := if 0 < n then some 0 else none, d1 := if 1 < n then some 0 else none, d2 := if 2 < n then some 0 else none,
    d3 := if 3 < n then some 0 else none, csum := none }

/-- ValidateNeedsTheWholeFrame: each clause. -/
theorem witness_partial_frame :
    busyState.busy = true ∧ busyState.susp = false ∧ (partialFrame 0).d0 = none ∧
    ((partialFrame 1).d0.isSome = true ∧ (partialFrame 1).d1 = none) ∧
    ((partialFrame 2).d0.isSome = true ∧ (partialFrame 2).d1.isSome = true ∧ (partialFrame 2).d2 = none) ∧
    ((partialFrame 3).d0.isSome = true ∧ (partialFrame 3).d1.isSome = true ∧ (partialFrame 3).d2.isSome = true ∧
      (partialFrame 3).d3 = none) ∧
    ((partialFrame 4).d0.isSome = true ∧ (partialFrame 4).d1.isSome = true ∧ (partialFrame 4).d2.isSome = true ∧
      (partialFrame 4).d3.isSome = true ∧ (partialFrame 4).csum = none) := by decide

/-- ChecksumCatchesEveryOneBitFlip: E1's frame, the first and the last bit. -/
theorem witness_checksum : examplePayload.sum = 0x4D ∧ 0 < 5 ∧ 4 < 5 ∧ 0 < 8 ∧ 7 < 8 := by decide

/-- ReadFrameIsAcceptedWhenNotBusy and the first clauses of AbortEndsTheReadInProgress: busy and not busy. -/
theorem witness_busy_and_not :
    busyState.busy = true ∧ State.reset.busy = false ∧ doneState.busy = false ∧ (failedState 2 none).busy = false := by decide

/-! #### States that meet the invariant -/

theorem reset_inv : State.reset.Inv := ⟨by decide, ⟨by decide, by decide⟩, by decide, by decide, by decide, by decide⟩

theorem busyState_byteInv : busyState.byteInv :=
  ⟨0, 0, 0, by decide, by decide, by decide, by decide, by decide, fun i h => absurd h (by simp)⟩

theorem busyState_inv : busyState.Inv :=
  ⟨by decide,
    ⟨busyState_byteInv, fun _ => ⟨0, false, by decide, by decide, by decide, by decide⟩, fun h => absurd h (by decide),
      fun h => absurd h (by decide)⟩,
    by decide, by decide, by decide, by decide⟩

theorem suspendedState_inv : suspendedState.Inv :=
  ⟨by decide,
    ⟨⟨0, 0, 0, by decide, by decide, by decide, by decide, by decide, fun i h => absurd h (by simp)⟩,
      fun h => absurd h (by decide), fun h => absurd h (by decide), fun h => absurd h (by decide)⟩,
    by decide, by decide, by decide, by decide⟩

theorem doneState_inv : doneState.Inv := ⟨by decide, ⟨by decide, by decide⟩, by decide, by decide, by decide⟩

theorem failedState_inv :
    (failedState 1 (some { tag := 7 })).Inv ∧ (failedState 2 none).Inv ∧ (failedState 3 none).Inv :=
  ⟨⟨by decide, ⟨by decide, by decide⟩, by decide, by decide, by decide, by decide⟩,
    ⟨by decide, ⟨by decide, by decide⟩, by decide, by decide, by decide, by decide⟩,
    ⟨by decide, ⟨by decide, by decide⟩, by decide, by decide, by decide, by decide⟩⟩

theorem validateState_inv (c : Byte) : (validateState c).Inv := by
  refine ⟨rfl, ⟨rfl, rfl, ?_⟩, rfl, rfl, rfl, rfl⟩
  intro i h
  have : i = 0 ∨ i = 1 ∨ i = 2 ∨ i = 3 ∨ i = 4 := by revert h; revert i; decide
  rcases this with rfl | rfl | rfl | rfl | rfl <;> rfl

/-- An invariant state with one more input and the given line still meets the invariant. -/
theorem inv_next {s : State} {m : Turn} {as : List LineAnswer} (h : s.Inv) :
    ({ next (.turn m) s with line := as } : State).Inv := ⟨rfl, h.2.1, h.2.2⟩

/-- AbortEndsTheReadInProgress: a read in progress with a delay outstanding. -/
theorem witness_abort :
    suspendedState.Inv ∧ suspendedState.busy = true ∧ ∃ t, exec .abort suspendedState = .next t ∧ (t.phase == .idle) = true :=
  ⟨suspendedState_inv, by decide, next_of_passes (by decide)⟩

/-- NothingOfAnEarlierReadReachesTheNext: after a read that succeeded and after one that failed, with different traces. -/
theorem witness_two_pasts :
    doneState.busy = false ∧ ({ failedState 2 none with trace := [.accept, .read lo] } : State).busy = false ∧
    doneState.susp = (failedState 2 none).susp ∧ doneState.inputs = (failedState 2 none).inputs ∧
    doneState.line = (failedState 2 none).line ∧ doneState.drive = (failedState 2 none).drive ∧
    doneState.draws = (failedState 2 none).draws ∧ doneState.lineShared = (failedState 2 none).lineShared ∧
    doneState.trace ≠ ({ failedState 2 none with trace := [.accept, .read lo] } : State).trace := by decide

/-- InternalOperationsNeedAnEnabledBlock: not busy, suspended, and each reserved operand at its bounds. -/
theorem witness_not_enabled :
    (Instr.validate.wf = true ∧ Instr.validate.isHostCommand = false ∧ State.reset.busy = false) ∧
    ((Instr.readByte 4).wf = true ∧ (Instr.readByte 4).isHostCommand = false ∧ suspendedState.susp = true) ∧
    (Instr.delay 0).wf = false ∧ (Instr.readByte 5).wf = false ∧ (Instr.readByte 7).wf = false := by decide

/-- StartPulseDrivesOnceThenWaits: both positions. -/
theorem witness_start_pulse :
    (State.reset.accept.phase = .startPulse ∧ State.reset.accept.sub = 0) ∧
    (({ State.reset.accept with sub := 1 } : State).phase = .startPulse ∧ ({ State.reset.accept with sub := 1 } : State).sub = 1) := by
  decide

/-- BlockStepAtEachLaterPosition: each position, both levels and an error at the sample, a sum that equals the checksum and one
that does not, and pairs of `PHASE` and `SUB` that R99 does not list. -/
theorem witness_later_positions :
    (({ busyState with phase := .awaitAckHigh } : State).phase = .awaitAckHigh ∧
      ({ busyState with phase := .awaitAckHigh } : State).sub = 0) ∧
    (({ busyState with phase := .awaitAckLow } : State).phase = .awaitAckLow ∧
      ({ busyState with phase := .awaitAckLow } : State).sub = 0) ∧
    (busyState.phase = .readByte ∧ busyState.sub = 0) ∧
    (({ busyState with sub := 1 } : State).phase = .readByte ∧ ({ busyState with sub := 1 } : State).sub = 1) ∧
    (∀ a ∈ [hi, lo, bad], ({ onLine [a] with sub := 2 } : State).phase = .readByte ∧
      ({ onLine [a] with sub := 2 } : State).sub = 2 ∧ ({ onLine [a] with sub := 2 } : State).lineAnswer = a) ∧
    (∀ c ∈ [(0x4D : Byte), 0x4C], (validateState c).phase = .validate ∧ (validateState c).sub = 0) ∧
    (State.reset.phase = .idle ∧ doneState.phase = .done ∧ (failedState 2 none).phase = .failed) ∧
    (2 ≤ ({ State.reset.accept with sub := 2 } : State).sub ∧ ({ validateState 0 with sub := 1 } : State).sub ≠ 0) := by
  refine ⟨⟨rfl, rfl⟩, ⟨rfl, rfl⟩, ⟨rfl, rfl⟩, ⟨rfl, rfl⟩, ?_, fun _ _ => ⟨rfl, rfl⟩, ⟨rfl, rfl, rfl⟩, by decide, by decide⟩
  exact fun _ _ => ⟨rfl, rfl, rfl⟩

/-- WaitStepIsPollStep: no check made, the last check made with its delay owed and with none owed. -/
theorem witness_wait_step :
    ∀ n ∈ [(0 : BitVec 7), 99, 100], ∀ p ∈ [false, true],
      Config.hw.wf = true ∧ ({ busyState with pollCnt := some n, pdly := some p } : State).pollCnt = some n ∧
      ({ busyState with pollCnt := some n, pdly := some p } : State).pdly = some p ∧ n.toNat ≤ Config.hw.budget := by decide

/-- FoldNextMovesToTheNextBitByteOrValidation: the bits 0, 6 and 7, the bytes 0, 3 and 4. -/
theorem witness_fold_next :
    (∀ i ∈ [(0 : BitVec 3), 6, 7], ∀ j ∈ [(0 : BitVec 3), 3, 4],
      ({ busyState with bit := some 1, bitIdx := some i, byteIdx := some j } : State).shift = some 0 ∧
      ({ busyState with bit := some 1, bitIdx := some i, byteIdx := some j } : State).bit = some 1 ∧
      ({ busyState with bit := some 1, bitIdx := some i, byteIdx := some j } : State).bitIdx = some i ∧
      ({ busyState with bit := some 1, bitIdx := some i, byteIdx := some j } : State).byteIdx = some j ∧ j ≤ 4) ∧
    ({ busyState with sub := 3 } : State).phase = .readByte ∧ ({ busyState with sub := 3 } : State).sub = 3 := by decide

/-- PhasesMoveOnlyAsTheSpecSays: an acceptance, an ABORT, a reset, and a block step. -/
theorem witness_phase_moves :
    ((next (moveTurn (.host 0x8000)) doneState).hardwareOnly = true ∧
      ∃ t, step (next (moveTurn (.host 0x8000)) doneState) = .next t ∧ (t.phase == .startPulse && doneState.phase != .startPulse) = true) ∧
    ((next (moveTurn (.host 0x9000)) busyState).hardwareOnly = true ∧
      ∃ t, step (next (moveTurn (.host 0x9000)) busyState) = .next t ∧ (t.phase == .idle && busyState.phase != .idle) = true) ∧
    ((next (.turn { reset := true, move := .block }) doneState).hardwareOnly = true ∧
      ∃ t, step (next (.turn { reset := true, move := .block }) doneState) = .next t ∧
        (t.phase == .idle && doneState.phase != .idle) = true) ∧
    ((next (moveTurn .block) (validateState 0x4D)).hardwareOnly = true ∧
      ∃ t, step (next (moveTurn .block) (validateState 0x4D)) = .next t ∧ (t.phase == .done) = true) :=
  ⟨⟨by decide, next_of_passes (by decide)⟩, ⟨by decide, next_of_passes (by decide)⟩, ⟨by decide, next_of_passes (by decide)⟩,
    ⟨by decide, next_of_passes (by decide)⟩⟩

/-- ResultHoldsBetweenReads: an ABORT after a read that succeeded, and the invariant's states with BUSY = 0. -/
theorem witness_between_reads :
    ((next (moveTurn (.host 0x9000)) doneState).hardwareOnly = true ∧
      (next (moveTurn (.host 0x9000)) doneState).busy = false ∧ (next (moveTurn (.host 0x9000)) doneState).susp = false ∧
      (∃ t, step (next (moveTurn (.host 0x9000)) doneState) = .next t ∧ (t == doneState) = true) ∧
      (next (moveTurn (.host 0x9000)) doneState).nextInput ≠ moveTurn (.host 0x8000) ∧
      ∀ m, (next (moveTurn (.host 0x9000)) doneState).nextInput ≠ .turn { reset := true, move := m }) ∧
    (State.reset.Inv ∧ State.reset.busy = false ∧ State.reset.phase = .idle) ∧
    (doneState.Inv ∧ doneState.busy = false ∧ doneState.phase ≠ .idle) :=
  ⟨⟨by decide, by decide, by decide, next_of_passes (by decide), by decide, fun m h => absurd h (by
      simp [next, moveTurn, State.nextInput])⟩,
    ⟨reset_inv, by decide, by decide⟩, ⟨doneState_inv, by decide, by decide⟩⟩

/-- ResultIsWrittenInOneStep: the VALIDATE step. -/
theorem witness_result_step :
    (next (moveTurn .block) (validateState 0x4D)).hardwareOnly = true ∧
    (next (moveTurn .block) (validateState 0x4D)).resultValid = false ∧
    ∃ t, step (next (moveTurn .block) (validateState 0x4D)) = .next t ∧ (t.resultValid == true) = true :=
  ⟨by decide, by decide, next_of_passes (by decide)⟩

/-- SuspendedBlockIsStuckWithoutTheTimeSource. -/
theorem witness_stuck :
    suspendedState.busy = true ∧ suspendedState.susp = true ∧ suspendedState.lineShared = false ∧
    (∀ m ∈ [Move.block, Move.host 0x8000], m = .block ∨ ∃ w : Word, m = .host w ∧ w ≠ 0x9000) ∧
    ({ suspendedState with inputs := [Move.block, Move.host 0x8000].map moveTurn } : State).inputs =
      [Move.block, Move.host 0x8000].map moveTurn ++ [] := by
  refine ⟨by decide, by decide, by decide, ?_, by decide⟩
  intro m hm
  rcases List.mem_cons.mp hm with rfl | hm
  · exact .inl rfl
  · rcases List.mem_cons.mp hm with rfl | hm
    · exact .inr ⟨0x8000, rfl, by decide⟩
    · exact absurd hm (by simp)

/-- AbortAndBlockStepInEitherOrder: a step that leaves the block busy, and one that ends the read. -/
theorem witness_abort_race :
    ((onLine [hi]).busy = true ∧ (onLine [hi]).susp = false ∧ (onLine [hi]).lineShared = false ∧
      ∃ u, blockStep Config.hw { onLine [hi] with inputs := [] } = .next u ∧ (u.busy == true) = true) ∧
    ((validateState 0x4D).busy = true ∧ (validateState 0x4D).susp = false ∧ (validateState 0x4D).lineShared = false ∧
      ∃ u, blockStep Config.hw { validateState 0x4D with inputs := [] } = .next u ∧ (u.busy == false) = true) :=
  ⟨⟨by decide, by decide, by decide, next_of_passes (by decide)⟩, ⟨by decide, by decide, by decide, next_of_passes (by decide)⟩⟩

/-- AbortAndBlockStepInEitherOrder, second clause: a delay outstanding. -/
theorem witness_abort_delay_race :
    suspendedState.busy = true ∧ suspendedState.susp = true ∧ suspendedState.lineShared = false := by decide

/-- StepKeepsTheInvariant and NoStepOfTheHardwareFaults: a check of a rise wait, and VALIDATE. -/
theorem witness_inv_step :
    (({ next (moveTurn .block) busyState with line := [hi] } : State).Inv ∧
      ∃ t, step { next (moveTurn .block) busyState with line := [hi] } = .next t ∧ (t.sub == 1) = true) ∧
    (({ next (moveTurn .block) (validateState 0x4D) with line := [] } : State).Inv ∧
      ∃ t, step { next (moveTurn .block) (validateState 0x4D) with line := [] } = .next t ∧ (t.phase == .done) = true) :=
  ⟨⟨inv_next busyState_inv, next_of_passes (by decide)⟩, ⟨inv_next (validateState_inv 0x4D), next_of_passes (by decide)⟩⟩

/-- NothingOvertakesADelay: a delay outstanding, and the block's turn comes. -/
theorem witness_outstanding :
    (next (moveTurn .block) suspendedState).delayInv ∧
    ∃ t, step (next (moveTurn .block) suspendedState) = .next t ∧ (t.susp == true) = true :=
  ⟨⟨by decide, fun _ => ⟨35, by decide⟩⟩, next_of_passes (by decide)⟩

/-- TheBlockNeverDrivesLow: the step that drives the line. -/
theorem witness_drives :
    (next (moveTurn .block) State.reset.accept).drivesHigh ∧
    ∃ t, step { next (moveTurn .block) State.reset.accept with drive := [.ok] } = .next t ∧ (driveCount t.trace == 1) = true :=
  ⟨fun e he l r h => by subst h; simp [next, State.accept, State.reset] at he, next_of_passes (by decide)⟩

/-- CausesAreCopiedNeverInspected: a sample that answers a line error. -/
theorem witness_causes :
    ({ next (moveTurn .block) (onLine [bad]) with drive := [.ok] } : State).inputs =
      .turn { reset := false, move := .block } :: [] ∧
    ({ next (moveTurn .block) (onLine [bad]) with drive := [.ok] } : State).line ≠ [] ∧
    ({ next (moveTurn .block) (onLine [bad]) with drive := [.ok] } : State).drive ≠ [] := by decide

/-- ReadReturnsExactlyTheFrameOnTheLine, CountsOfACompleteRead and DataWordIsTheFirst32Bits: E1's frame and E2's, after reset. -/
theorem witness_read :
    ∀ c ∈ [(0x4D : Byte), 0x00],
      ({ State.reset with line := (exampleScript c).answers } : State).cleanEntry = true ∧
      ({ State.reset with line := (exampleScript c).answers } : State).busy = false ∧
      ({ State.reset with line := (exampleScript c).answers } : State).susp = false ∧
      (exampleScript c).inBudget = true ∧
      (exampleScript c).bits.map BitScript.bit =
        bitsOf examplePayload.b0 ++ bitsOf examplePayload.b1 ++ bitsOf examplePayload.b2 ++ bitsOf examplePayload.b3 ++ bitsOf c ∧
      ({ State.reset with line := (exampleScript c).answers } : State).line = (exampleScript c).answers ++ [] := by
  decide +kernel

/-- The longest read that succeeds (F13): every wait at the last check of its budget. -/
theorem witness_longest_read :
    (FrameScript.mk 100 100 ((exampleScript 0x4D).bits.map fun x => BitScript.mk 100 x.bit 100)).inBudget = true ∧
    (FrameScript.mk 100 100 ((exampleScript 0x4D).bits.map fun x => BitScript.mk 100 x.bit 100)).checks = 8200 := by
  decide +kernel

/-- ReadEndsWithinItsStepBound, AnyReadIsBounded, ReadFrameIsItsExpansion: after reset and after a read. -/
theorem witness_launch :
    ∀ s ∈ [State.reset, doneState, failedState 2 none], s.busy = false ∧ s.susp = false := by decide

/-- StatusByteOfEveryState: a state of each clause that meets the invariant. -/
theorem witness_status_byte :
    (State.reset.Inv ∧ State.reset.phase = .idle) ∧ (busyState.Inv ∧ busyState.phase = .readByte) ∧
    (doneState.Inv ∧ doneState.phase = .done) ∧
    ((failedState 1 (some { tag := 7 })).Inv ∧ (failedState 2 none).Inv ∧ (failedState 3 none).Inv ∧
      (failedState 3 none).phase = .failed) :=
  ⟨⟨reset_inv, by decide⟩, ⟨busyState_inv, by decide⟩, ⟨doneState_inv, by decide⟩, failedState_inv.1, failedState_inv.2.1,
    failedState_inv.2.2, by decide⟩

/-- DataWordIsTheFirst32Bits: a VALIDATE that accepts, and a payload with its checksum (the script is in witness_read). -/
theorem witness_data_word :
    (∃ t, Machine.validate (validateState 0x4D) = .next t ∧ (t.phase == .done) = true) ∧ examplePayload.sum = 0x4D :=
  ⟨next_of_passes (by decide), by decide⟩

end Sys2Proof.Tests
end

section
/-! PROOF. The parts of the invariant: what it says at each position, and what one field's update asks for. -/

namespace Sys2Proof.Machine

/-! ### The frame buffer and the fold -/

/-- A byte of the frame buffer after a write: the written one at its own slot, the old one elsewhere (rules R13 and R66). -/
theorem read_write (f : Frame) (j i : BitVec 3) (v : Byte) :
    (f.write j v).read i = if i = j ∧ j ≤ 4 then some v else f.read i := by
  unfold Frame.write
  split_ifs <;> simp_all [Frame.read]
  bv_omega

/-- Writing the byte at `BYTE_IDX` fills the buffer below the next index (rule R20). -/
theorem filledBelow_write {f : Frame} {j : BitVec 3} (hf : f.filledBelow j) (hj : j ≤ 4) (v : Byte) :
    (f.write j v).filledBelow (j + 1) := by
  intro i hi
  rw [read_write]
  split
  · rfl
  · exact hf i (by bv_omega)

/-- A frame buffer filled below 5 holds all five bytes. -/
theorem eq_of_filledBelow_five {f : Frame} (hf : f.filledBelow 5) :
    ∃ d0 d1 d2 d3 c, f = ⟨some d0, some d1, some d2, some d3, some c⟩ := by
  obtain ⟨d0, h0⟩ := Option.isSome_iff_exists.mp (hf 0 (by decide))
  obtain ⟨d1, h1⟩ := Option.isSome_iff_exists.mp (hf 1 (by decide))
  obtain ⟨d2, h2⟩ := Option.isSome_iff_exists.mp (hf 2 (by decide))
  obtain ⟨d3, h3⟩ := Option.isSome_iff_exists.mp (hf 3 (by decide))
  obtain ⟨c, hc⟩ := Option.isSome_iff_exists.mp (hf 4 (by decide))
  exact ⟨d0, d1, d2, d3, c, by cases f; simp_all [Frame.read]⟩

theorem foldBit_toNat (sh : Byte) (b : BitVec 1) : (foldBit sh b).toNat = 2 * sh.toNat % 256 + b.toNat := by
  have hb := b.isLt
  simp only [foldBit, BitVec.toNat_append, BitVec.extractLsb'_toNat, Nat.shiftRight_zero]
  rw [← Nat.shiftLeft_add_eq_or_of_lt hb, Nat.shiftLeft_eq]
  omega

/-- The fold of a bit keeps `SHIFT` below the power of the bits read (rule R89). -/
theorem foldBit_lt_two_pow {sh : Byte} {i : BitVec 3} (b : BitVec 1) (hs : sh.toNat < 2 ^ i.toNat) (hi : i < 7) :
    (foldBit sh b).toNat < 2 ^ (i + 1).toNat := by
  have hn : (i + 1).toNat = i.toNat + 1 := by bv_omega
  rw [hn, pow_succ, foldBit_toNat]
  have := Nat.mod_le (2 * sh.toNat) 256
  have := b.isLt
  omega

/-! ### What the invariant says at a position -/

theorem positionInv_of_not_busy {s : State} (h : s.busy = false) : s.positionInv ↔ s.sub = 0 ∧ s.susp = false := by
  cases hp : s.phase <;> simp_all [State.busy, Phase.busy, State.positionInv]

theorem positionInv_of_startPulse {s : State} (h : s.phase = .startPulse) :
    s.positionInv ↔ s.sub ≤ 1 ∧ s.susp = false := by
  simp [State.positionInv, h]

theorem positionInv_of_awaitAck {s : State} (h : s.phase = .awaitAckHigh ∨ s.phase = .awaitAckLow) :
    s.positionInv ↔ s.sub = 0 ∧ s.waitInv := by
  rcases h with h | h <;> simp [State.positionInv, h]

theorem positionInv_of_readByte {s : State} (h : s.phase = .readByte) :
    s.positionInv ↔ s.byteInv ∧ (s.sub = 0 → s.waitInv) ∧ (s.sub = 1 → s.susp = false) ∧
      (s.sub = 3 → s.waitInv ∧ s.bit.isSome) := by
  simp [State.positionInv, h]

theorem positionInv_of_validate {s : State} (h : s.phase = .validate) :
    s.positionInv ↔ s.sub = 0 ∧ s.susp = false ∧ s.frame.filledBelow 5 := by
  simp [State.positionInv, h]

theorem busy_of_phase {s : State} {p : Phase} (h : s.phase = p) : s.busy = p.busy := by rw [State.busy, h]

theorem resultInv_of_busy {s : State} (h : s.busy = true) : s.resultInv ↔ s.resultClear := by
  cases hp : s.phase <;> simp_all [State.busy, Phase.busy, State.resultInv]

/-- During a read the result registers are clear. -/
theorem resultClear_of_busy {s : State} (hs : s.Inv) (h : s.busy = true) : s.resultClear :=
  (resultInv_of_busy h).mp hs.2.2

/-! ### The invariant at a position, from its parts -/

theorem inv_of_idle {s : State} (hp : s.phase = .idle) (hh : s.hardwareOnly = true) (hc : s.resultClear) (h0 : s.sub = 0)
    (hu : s.susp = false) : s.Inv :=
  ⟨hh, (positionInv_of_not_busy (busy_of_phase hp)).mpr ⟨h0, hu⟩, by rwa [State.resultInv, hp]⟩

theorem inv_of_startPulse {s : State} (hp : s.phase = .startPulse) (hh : s.hardwareOnly = true) (hc : s.resultClear)
    (h1 : s.sub ≤ 1) (hu : s.susp = false) : s.Inv :=
  ⟨hh, (positionInv_of_startPulse hp).mpr ⟨h1, hu⟩, (resultInv_of_busy (busy_of_phase hp)).mpr hc⟩

theorem inv_of_awaitAck {s : State} (hp : s.phase = .awaitAckHigh ∨ s.phase = .awaitAckLow) (hh : s.hardwareOnly = true)
    (hc : s.resultClear) (h0 : s.sub = 0) (hw : s.waitInv) : s.Inv :=
  ⟨hh, (positionInv_of_awaitAck hp).mpr ⟨h0, hw⟩, (resultInv_of_busy (hp.elim busy_of_phase busy_of_phase)).mpr hc⟩

theorem inv_of_readByte {s : State} (hp : s.phase = .readByte) (hh : s.hardwareOnly = true) (hc : s.resultClear)
    (hb : s.byteInv) (h0 : s.sub = 0 → s.waitInv) (h1 : s.sub = 1 → s.susp = false)
    (h3 : s.sub = 3 → s.waitInv ∧ s.bit.isSome) : s.Inv :=
  ⟨hh, (positionInv_of_readByte hp).mpr ⟨hb, h0, h1, h3⟩, (resultInv_of_busy (busy_of_phase hp)).mpr hc⟩

theorem inv_of_validate {s : State} (hp : s.phase = .validate) (hh : s.hardwareOnly = true) (hc : s.resultClear)
    (h0 : s.sub = 0) (hu : s.susp = false) (hf : s.frame.filledBelow 5) : s.Inv :=
  ⟨hh, (positionInv_of_validate hp).mpr ⟨h0, hu, hf⟩, (resultInv_of_busy (busy_of_phase hp)).mpr hc⟩

/-- The wait that `wait_reset` starts has its counters in range (rule R22). -/
theorem waitInv_waitReset (s : State) : s.waitReset.waitInv := ⟨0, false, rfl, rfl, by decide, by simp⟩

/-! ### The entries, from any state -/

/-- The reset of the block brings about the invariant (rule R127). -/
theorem resetBlock_inv {s : State} (hh : s.hardwareOnly = true) : s.resetBlock.Inv :=
  inv_of_idle rfl hh ⟨rfl, rfl, rfl, rfl⟩ rfl rfl

/-- So does the failure entry with no delay outstanding (rule R113). -/
theorem failEntry_inv {s : State} (hh : s.hardwareOnly = true) (hu : s.susp = false) (k : FailKind) : (s.failEntry k).Inv := by
  refine ⟨hh, (positionInv_of_not_busy rfl).mpr ⟨rfl, hu⟩, rfl, ?_, ?_, rfl⟩ <;> cases k <;> simp [FailKind.code, FailKind.cause]

/-- So does the entry of a result with no delay outstanding (rule R92). -/
theorem okEntry_inv {s : State} (hh : s.hardwareOnly = true) (hu : s.susp = false) (d : Payload) : (s.okEntry d).Inv :=
  ⟨hh, (positionInv_of_not_busy rfl).mpr ⟨rfl, hu⟩, rfl, rfl, rfl⟩

/-- So does an acceptance with no delay outstanding (rule R91). -/
theorem accept_inv {s : State} (hh : s.hardwareOnly = true) (hu : s.susp = false) : s.accept.Inv :=
  inv_of_startPulse rfl hh ⟨rfl, rfl, rfl, rfl⟩ (by simp) hu

/-- An `ABORT` of a read keeps the invariant: the result registers are clear already (rule R96). -/
theorem abortRead_inv {s : State} (hs : s.Inv) (hb : s.busy = true) : s.abortRead.Inv :=
  have hc := resultClear_of_busy hs hb
  inv_of_idle rfl hs.1 hc rfl rfl

/-- A completed delay keeps the invariant: no position asks for an outstanding one (rule R23). -/
theorem delayDone_inv {s : State} (hs : s.Inv) : s.delayDone.Inv := by
  obtain ⟨hh, hp, hr⟩ := hs
  refine ⟨hh, ?_, hr⟩
  unfold State.positionInv at hp ⊢
  rw [State.delayDone_phase]
  split at hp <;> simp_all [State.waitInv, State.byteInv]

/-! ### A step of a wait -/

/-- `t` differs from `s` in `POLL_CNT`, `PDLY`, `SUSP`, the line and the trace only: what a wait that goes on may write (rule R100). -/
structure SameButCounters (s t : State) : Prop where
  phase : t.phase = s.phase
  sub : t.sub = s.sub
  byteIdx : t.byteIdx = s.byteIdx
  bitIdx : t.bitIdx = s.bitIdx
  shift : t.shift = s.shift
  bit : t.bit = s.bit
  frame : t.frame = s.frame
  inputs : t.inputs = s.inputs
  resultValid : t.resultValid = s.resultValid
  status : t.status = s.status
  cause : t.cause = s.cause
  outData : t.outData = s.outData

/-- The positions of the three kinds of wait, and the one between a sample's delay and the sample: those at which `SUSP` may be 1. -/
def State.mayBeSuspended (s : State) : Prop :=
  (s.phase = .awaitAckHigh ∨ s.phase = .awaitAckLow) ∨ (s.phase = .readByte ∧ s.sub ≠ 1)

theorem check_sameButCounters (s : State) (cnt : BitVec 7) : SameButCounters s (s.check cnt) :=
  ⟨rfl, rfl, rfl, rfl, rfl, rfl, rfl, rfl, rfl, rfl, rfl, rfl⟩

theorem SameButCounters.byteInv {s t : State} (h : SameButCounters s t) (hs : s.byteInv) : t.byteInv := by
  simpa only [State.byteInv, h.byteIdx, h.bitIdx, h.shift, h.frame] using hs

/-- At a wait, the invariant needs no more of the fields a wait writes than counters in range. -/
theorem SameButCounters.inv {s t : State} (h : SameButCounters s t) (hs : s.Inv) (hp : s.mayBeSuspended) (hw : t.waitInv) :
    t.Inv := by
  obtain ⟨hh, hpos, hres⟩ := hs
  refine ⟨by simpa only [State.hardwareOnly, h.inputs] using hh, ?_, ?_⟩
  · rcases hp with hp | ⟨hp, h1⟩
    · rw [positionInv_of_awaitAck (by rwa [h.phase]), h.sub]
      exact ⟨((positionInv_of_awaitAck hp).mp hpos).1, hw⟩
    · obtain ⟨hb, -, -, h3⟩ := (positionInv_of_readByte hp).mp hpos
      rw [positionInv_of_readByte (by rwa [h.phase]), h.sub, h.bit]
      exact ⟨h.byteInv hb, fun _ => hw, fun h1' => absurd h1' h1, fun h3' => ⟨hw, (h3 h3').2⟩⟩
  · simpa only [State.resultInv, State.resultClear, h.phase, h.resultValid, h.status, h.cause, h.outData] using hres

theorem toNat_succ_of_lt_budget {cnt : BitVec 7} (hb : cnt.toNat < Config.hw.budget) : (cnt + 1).toNat = cnt.toNat + 1 := by
  have h100 : Config.hw.budget = 100 := rfl
  bv_omega

/-- A check that may be made leaves the invariant (rule R100): the count stays within the budget. -/
theorem check_inv {s : State} {cnt : BitVec 7} (hs : s.Inv) (hp : s.mayBeSuspended) (hd : s.pdly = some false)
    (hb : cnt.toNat < Config.hw.budget) : (s.check cnt).Inv :=
  (check_sameButCounters s cnt).inv hs hp ⟨cnt + 1, false, rfl, hd, by rw [toNat_succ_of_lt_budget hb]; omega, by simp⟩

/-- A step of a wait keeps the invariant, if what follows the wait does (rule R100). -/
theorem PollStepTo.inv {T : Level} {K : State → Out} {s t : State} (h : PollStepTo Config.hw T K s t) (hs : s.Inv)
    (hu : s.susp = false) (hp : s.mayBeSuspended)
    (hK : ∀ cnt, (s.check cnt).Inv → K (s.check cnt) = .next t → t.Inv) : t.Inv := by
  have hh := hs.1
  cases h with
  | timeout => exact failEntry_inv hh hu _
  | error => exact failEntry_inv hh hu _
  | lastMiss => exact failEntry_inv hh hu _
  | delay cnt hc hd hb =>
    exact SameButCounters.inv (s := s) ⟨rfl, rfl, rfl, rfl, rfl, rfl, rfl, rfl, rfl, rfl, rfl, rfl⟩ hs hp
      ⟨cnt, false, hc, rfl, hb, by simp⟩
  | found cnt _ hc hd hb _ hk => exact hK cnt (check_inv hs hp hd hb) hk
  | miss cnt hc hd hb =>
    have hn := toNat_succ_of_lt_budget hb
    exact SameButCounters.inv (s := s) ⟨rfl, rfl, rfl, rfl, rfl, rfl, rfl, rfl, rfl, rfl, rfl, rfl⟩ hs hp
      ⟨cnt + 1, true, rfl, rfl, by omega, by omega⟩

/-! ### What follows a wait -/

/-- `K1` of rule R99: the second wait of the handshake starts. -/
theorem afterAckHigh_inv {s t : State} (hs : s.Inv) (hp : s.phase = .awaitAckHigh) (h : afterAckHigh s = .next t) : t.Inv := by
  cases h
  have hc := resultClear_of_busy hs (busy_of_phase hp)
  have h0 := ((positionInv_of_awaitAck (.inl hp)).mp hs.2.1).1
  exact inv_of_awaitAck (.inr rfl) hs.1 hc h0 (waitInv_waitReset _)

/-- `K2` of rule R99: the first byte starts, with `SHIFT` 0 and no byte of the frame due. -/
theorem afterAckLow_inv {s t : State} (hs : s.Inv) (hp : s.phase = .awaitAckLow) (h : afterAckLow s = .next t) : t.Inv := by
  cases h
  have hc := resultClear_of_busy hs (busy_of_phase hp)
  exact inv_of_readByte rfl hs.1 hc
    ⟨0, 0, 0, rfl, rfl, rfl, by decide, by decide, fun i hi => absurd hi (by simp)⟩
    (fun _ => waitInv_waitReset _) (by simp) (by simp)

/-- `K3` of rule R99: the rise was found, and no delay is outstanding. -/
theorem afterRise_inv {s t : State} (hs : s.Inv) (hp : s.phase = .readByte) (hu : s.susp = false)
    (h : afterRise s = .next t) : t.Inv := by
  cases h
  have hc := resultClear_of_busy hs (busy_of_phase hp)
  have hb := ((positionInv_of_readByte hp).mp hs.2.1).1
  exact inv_of_readByte hp hs.1 hc hb (by simp) (fun _ => hu) (by simp)

/-- `fold_next` keeps the invariant (rule R101): the fold keeps `SHIFT` below its bound, and a finished byte fills the frame buffer
up to the next index. -/
theorem foldNext_inv {s t : State} (hs : s.Inv) (hp : s.phase = .readByte) (hu : s.susp = false)
    (h : foldNext s = .next t) : t.Inv := by
  have hc := resultClear_of_busy hs (busy_of_phase hp)
  obtain ⟨j, i, sh, hj, hi, hsh, hj4, hlt, hfill⟩ := ((positionInv_of_readByte hp).mp hs.2.1).1
  cases foldNext_next h with
  | nextBit sh' b i' hs' _ hi' h7 =>
    cases hsh.symm.trans hs'
    cases hi.symm.trans hi'
    exact inv_of_readByte hp hs.1 hc ⟨j, i + 1, foldBit sh b, hj, rfl, rfl, hj4, foldBit_lt_two_pow b hlt h7, hfill⟩
      (fun _ => waitInv_waitReset _) (by simp) (by simp)
  | nextByte sh' b i' j' _ _ _ _ hj' h4 =>
    cases hj.symm.trans hj'
    exact inv_of_readByte hp hs.1 hc
      ⟨j + 1, 0, 0, rfl, rfl, rfl, by bv_omega, by decide, filledBelow_write hfill hj4 (foldBit sh' b)⟩
      (fun _ => waitInv_waitReset _) (by simp) (by simp)
  | lastByte sh' b i' _ _ _ _ hj' =>
    cases hj.symm.trans hj'
    exact inv_of_validate rfl hs.1 hc rfl hu (filledBelow_write hfill hj4 (foldBit sh' b))

/-! ### The block's step and the step of the machine -/

/-- The block's step keeps the invariant (rule R99). -/
theorem blockStepTo_inv {s t : State} (h : BlockStepTo Config.hw s t) (hs : s.Inv) (hu : s.susp = false) : t.Inv := by
  have hh := hs.1
  cases h with
  | waits => exact hs
  | drives hp =>
    have hc := resultClear_of_busy hs (busy_of_phase hp)
    exact inv_of_startPulse hp hh hc (by simp) hu
  | startDelay hp =>
    have hc := resultClear_of_busy hs (busy_of_phase hp)
    have hw := waitInv_waitReset { s with phase := .awaitAckHigh, sub := 0 }
    exact inv_of_awaitAck (.inl rfl) hh hc rfl hw
  | ackHigh _ hp _ h => exact h.inv hs hu (.inl (.inl hp)) fun _ hi => afterAckHigh_inv hi hp
  | ackLow _ hp _ h => exact h.inv hs hu (.inl (.inr hp)) fun _ hi => afterAckLow_inv hi hp
  | rise _ hp h0 h => exact h.inv hs hu (.inr ⟨hp, by simp [h0]⟩) fun _ hi => afterRise_inv hi hp hu
  | midDelay hp =>
    have hc := resultClear_of_busy hs (busy_of_phase hp)
    have hb := ((positionInv_of_readByte hp).mp hs.2.1).1
    exact inv_of_readByte hp hh hc hb (by simp) (by simp) (by simp)
  | sample l hp =>
    have hc := resultClear_of_busy hs (busy_of_phase hp)
    have hb := ((positionInv_of_readByte hp).mp hs.2.1).1
    exact inv_of_readByte hp hh hc hb (by simp) (by simp) fun _ => ⟨waitInv_waitReset _, rfl⟩
  | sampleError c => exact failEntry_inv hh hu _
  | fall _ hp h3 h => exact h.inv hs hu (.inr ⟨hp, by simp [h3]⟩) fun _ hi => foldNext_inv hi hp hu
  | validates _ _ _ h =>
    cases h with
    | accepts => exact okEntry_inv hh hu _
    | rejects => exact failEntry_inv hh hu _

/-- The input of a state with no harness word waiting is a turn, a free one too. -/
theorem nextInput_eq_turn {s : State} (hs : s.hardwareOnly = true) : ∃ u, s.nextInput = .turn u := by
  cases hl : s.inputs with
  | nil => exact ⟨Config.freeTurn s.draws, by simp [State.nextInput, hl]⟩
  | cons i is =>
    cases i with
    | turn u => exact ⟨u, by simp [State.nextInput, hl]⟩
    | harness w => simp [State.hardwareOnly, hl, Input.isTurn] at hs

/-- Taking an input keeps the invariant: it leaves the registers alone. -/
theorem takeInput_inv {s : State} (hs : s.Inv) : s.takeInput.Inv := by
  obtain ⟨hh, hp, hr⟩ := hs
  refine ⟨?_, hp, hr⟩
  have hall : ∀ i ∈ s.inputs, i.isTurn = true := List.all_eq_true.mp hh
  exact List.all_eq_true.mpr fun i hi => hall i (List.mem_of_mem_tail hi)

/-- A turn of the hardware keeps the invariant (rules R98, R117 and R126). -/
theorem runInputTo_inv {u : Turn} {s t : State} (h : RunInputTo (.turn u) s t) (hs : s.Inv) : t.Inv := by
  cases h with
  | reset => exact resetBlock_inv hs.1
  | block _ _ he h => exact blockStepTo_inv h hs (blockEnabled_iff.mp he).2
  | blockWaits => exact hs
  | timeSource =>
    unfold State.timeTurn
    split
    · exact delayDone_inv hs
    · exact hs
  | lineUser => exact hs
  | accept _ _ _ hb => exact accept_inv hs.1 ((positionInv_of_not_busy hb).mp hs.2.1).2
  | abort _ _ _ hb => exact abortRead_inv hs hb
  | ignored => exact hs
  | harness w j _ hi => cases hi

/-- Settles O47: the step takes its input, a turn, and each thing a turn can do keeps the invariant. -/
theorem stepKeepsTheInvariant : Obligations.StepKeepsTheInvariant := by
  intro s t hs h
  obtain ⟨u, hu⟩ := nextInput_eq_turn hs.1
  exact runInputTo_inv (hu ▸ step_next h) (takeInput_inv hs)

/-- Settles O46: the state after reset is what the reset of the block makes of it. -/
theorem invariantHoldsAtReset : Obligations.InvariantHoldsAtReset :=
  resetBlock_inv (s := State.reset) rfl

/-- Settles O12: every field by its definition. -/
theorem resetStateIsAsTheSpecSays : Obligations.ResetStateIsAsTheSpecSays := by
  unfold Obligations.ResetStateIsAsTheSpecSays
  decide

end Sys2Proof.Machine
end

section
/-! PROOF. Progress: each step of the block answers a next state where the registers it reads hold values in range. -/

namespace Sys2Proof.Machine

/-! ### A register read that decides the outcome -/

/-- A read of a register that holds a value passes on what the rest answers for every value. -/
theorem withReg_of_isSome {α : Type} {r : RegName} {v : Option α} {k : α → Out} {o : Out} (hv : v.isSome = true)
    (hk : ∀ x, k x = o) : withReg r v k = o := by
  obtain ⟨x, rfl⟩ := Option.isSome_iff_exists.mp hv
  exact hk x

theorem withReg_of_none {α : Type} {r : RegName} {v : Option α} {k : α → Out} (hv : v = none) :
    withReg r v k = .fault (.noValue r) := by
  rw [hv, withReg_none]

/-- Settles O31: an enabled `VALIDATE` reads the five bytes in order and faults at the first without a value. -/
theorem validateNeedsTheWholeFrame : Obligations.ValidateNeedsTheWholeFrame := by
  intro s hb hu
  have he : exec .validate s = validate s := whenEnabled_of_enabled (blockEnabled_iff.mpr ⟨hb, hu⟩) validate
  rw [he]
  refine ⟨fun h0 => ?_, fun h0 h1 => ?_, fun h0 h1 h2 => ?_, fun h0 h1 h2 h3 => ?_, fun h0 h1 h2 h3 h4 => ?_⟩
  · exact withReg_of_none h0
  · exact withReg_of_isSome h0 fun _ => withReg_of_none h1
  · exact withReg_of_isSome h0 fun _ => withReg_of_isSome h1 fun _ => withReg_of_none h2
  · exact withReg_of_isSome h0 fun _ => withReg_of_isSome h1 fun _ => withReg_of_isSome h2 fun _ => withReg_of_none h3
  · exact withReg_of_isSome h0 fun _ => withReg_of_isSome h1 fun _ => withReg_of_isSome h2 fun _ =>
      withReg_of_isSome h3 fun _ => withReg_of_none h4

/-! ### Progress of the block -/

/-- A step of a wait with its counters in range answers, if what follows the wait does (rule R100). -/
theorem pollStep_answers {T : Level} {K : State → Out} {s : State} (hw : s.waitInv)
    (hK : ∀ cnt, ∃ t, K (s.check cnt) = .next t) : ∃ t, pollStep Config.hw T K s = .next t := by
  obtain ⟨cnt, owed, hc, hd, hb, -⟩ := hw
  rw [pollStep, hc, hd, withReg_some, withReg_some, if_neg (by omega)]
  split
  · exact ⟨_, rfl⟩
  split
  · exact ⟨_, rfl⟩
  split
  · exact ⟨_, rfl⟩
  split
  · exact hK cnt
  split
  · exact ⟨_, rfl⟩
  · exact ⟨_, rfl⟩

/-- `fold_next` answers where the byte's registers are in range and a bit was sampled (rule R101). -/
theorem foldNext_answers {s : State} (hs : s.byteInv) (hbit : s.bit.isSome = true) : ∃ t, foldNext s = .next t := by
  obtain ⟨j, i, sh, hj, hi, hsh, hj4, -, -⟩ := hs
  obtain ⟨b, hb⟩ := Option.isSome_iff_exists.mp hbit
  rw [foldNext, hsh, hb, hi, hj]
  simp only [withReg_some, if_neg (show ¬ 4 < j by bv_omega)]
  split
  · exact ⟨_, rfl⟩
  split
  · exact ⟨_, rfl⟩
  · exact ⟨_, rfl⟩

/-- `VALIDATE` answers where the frame buffer is filled (rule R92). -/
theorem validate_answers {s : State} (hf : s.frame.filledBelow 5) : ∃ t, validate s = .next t := by
  obtain ⟨d0, d1, d2, d3, c, hf⟩ := eq_of_filledBelow_five hf
  rw [validate, hf]
  simp only [withReg_some]
  split
  · exact ⟨_, rfl⟩
  · exact ⟨_, rfl⟩

theorem atSubZero_answers {k : State → Out} {s : State} (h : s.sub = 0) (hk : ∃ t, k s = .next t) :
    ∃ t, atSubZero k s = .next t := by
  rwa [atSubZero, if_pos h]

theorem startPulseStep_answers {s : State} (h : s.sub ≤ 1) : ∃ t, startPulseStep s = .next t := by
  unfold startPulseStep
  split
  · exact ⟨_, rfl⟩
  · exact ⟨_, if_pos (by bv_omega)⟩

theorem sampleStep_answers (s : State) : ∃ t, sampleStep s = .next t := by
  unfold sampleStep
  split
  · exact ⟨_, rfl⟩
  · exact ⟨_, rfl⟩

/-- The step of a byte read answers at each of its four positions (rule R99). -/
theorem readByteStep_answers {s : State} (hs : s.positionInv) (hp : s.phase = .readByte) :
    ∃ t, readByteStep Config.hw s = .next t := by
  obtain ⟨hb, h0, -, h3⟩ := (positionInv_of_readByte hp).mp hs
  unfold readByteStep
  split
  · exact pollStep_answers (h0 ‹_›) fun _ => ⟨_, rfl⟩
  split
  · exact ⟨_, rfl⟩
  split
  · exact sampleStep_answers s
  · obtain ⟨hw, hbit⟩ := h3 (by bv_omega)
    exact pollStep_answers hw fun cnt => foldNext_answers ((check_sameButCounters s cnt).byteInv hb) hbit

/-- The block's step answers wherever the position fits the registers (rule R99). -/
theorem blockStep_answers {s : State} (hs : s.positionInv) : ∃ t, blockStep Config.hw s = .next t := by
  rw [blockStep]
  cases hp : s.phase with
  | idle | done | failed => exact ⟨_, rfl⟩
  | startPulse => exact startPulseStep_answers ((positionInv_of_startPulse hp).mp hs).1
  | awaitAckHigh =>
    obtain ⟨h0, hw⟩ := (positionInv_of_awaitAck (.inl hp)).mp hs
    exact atSubZero_answers h0 (pollStep_answers hw fun _ => ⟨_, rfl⟩)
  | awaitAckLow =>
    obtain ⟨h0, hw⟩ := (positionInv_of_awaitAck (.inr hp)).mp hs
    exact atSubZero_answers h0 (pollStep_answers hw fun _ => ⟨_, rfl⟩)
  | readByte => exact readByteStep_answers hs hp
  | validate =>
    obtain ⟨h0, -, hf⟩ := (positionInv_of_validate hp).mp hs
    exact atSubZero_answers h0 (validate_answers hf)

/-- A host command answers in every state (rules R91 and R96). -/
theorem exec_hostCommand_answers {i : Instr} (hi : i.isHostCommand = true) (s : State) : ∃ t, exec i s = .next t := by
  cases i with
  | readFrame =>
    by_cases hb : s.busy = true
    · exact ⟨s, if_pos hb⟩
    · exact ⟨s.accept, if_neg hb⟩
  | abort =>
    by_cases hb : s.busy = true
    · exact ⟨s.abortRead, if_pos hb⟩
    · exact ⟨s, if_neg hb⟩
  | _ => simp [Instr.isHostCommand] at hi

/-- The host port answers for every word (rules R67 and R68). -/
theorem hostWrite_answers (w : Word) (s : State) : ∃ t, hostWrite w s = .next t := by
  unfold hostWrite
  split
  · split
    · exact exec_hostCommand_answers ‹_› s
    · exact ⟨_, rfl⟩
  · exact ⟨_, rfl⟩

/-- Every move of the hardware answers (rule R98). -/
theorem runMove_answers (m : Move) {s : State} (hs : s.positionInv) : ∃ t, runMove m s = .next t := by
  cases m with
  | block =>
    simp only [runMove, blockTurn]
    split
    · exact blockStep_answers hs
    · exact ⟨_, rfl⟩
  | timeSource => exact ⟨_, rfl⟩
  | host w => exact hostWrite_answers w s
  | lineUser on => exact ⟨_, rfl⟩

/-- Every turn answers but one during a read whose line is shared, which is refused (rule R133). -/
theorem runInput_turn_answers (u : Turn) {s : State} (hs : s.positionInv) :
    (∃ t, runInput (.turn u) s = .next t) ∨ (runInput (.turn u) s = .refused .lineShared ∧ s.lineConflict = true) := by
  simp only [runInput]
  split
  · exact .inl ⟨_, rfl⟩
  split
  · exact .inr ⟨rfl, ‹_›⟩
  · exact .inl (runMove_answers u.move hs)

/-- Settles O48: the step takes its input, a turn, and the invariant gives each register the turn reads its value. -/
theorem noStepOfTheHardwareFaults : Obligations.NoStepOfTheHardwareFaults := by
  intro s hs
  obtain ⟨hh, hp, -⟩ := hs
  obtain ⟨u, hu⟩ := nextInput_eq_turn hh
  rw [step, hu]
  rcases runInput_turn_answers u (s := s.takeInput) hp with h | ⟨h, hl⟩
  · exact .inl h
  · obtain ⟨hb, hline⟩ := Bool.and_eq_true_iff.mp hl
    exact .inr ⟨h, hb, hline⟩

end Sys2Proof.Machine
end

section
/-! PROOF. The earlier events: every operation of the machine does the same with more of them recorded, and acceptance keeps nothing
else of an earlier read. -/

namespace Sys2Proof.Machine

/-- A run with more events recorded before its own. -/
def historyRun {α : Type} (p : List Event) : Run α → Run α
  | .ok v s => .ok v (s.withHistory p)
  | .failed s => .failed (s.withHistory p)

@[simp] theorem historyRun_ok {α : Type} (p : List Event) (v : α) (s : State) :
    historyRun p (.ok v s) = .ok v (s.withHistory p) := rfl

@[simp] theorem historyRun_failed {α : Type} (p : List Event) (s : State) :
    historyRun p (.failed s : Run α) = .failed (s.withHistory p) := rfl

@[simp] theorem historyOut_next (p : List Event) (s : State) : historyOut p (.next s) = .next (s.withHistory p) := rfl

@[simp] theorem historyOut_fault (p : List Event) (f : Fault) : historyOut p (.fault f) = .fault f := rfl

@[simp] theorem historyOut_refused (p : List Event) (r : Refusal) : historyOut p (.refused r) = .refused r := rfl

/-! ### The shared combinators -/

theorem state_historyRun {α : Type} (p : List Event) (r : Run α) : (historyRun p r).state = r.state.withHistory p := by
  cases r <;> rfl

/-- A sequence of runs does the same after more events if its parts do. -/
theorem andThen_historyRun {α β : Type} (p : List Event) (r : Run α) {k : α → State → Run β}
    (hk : ∀ v s, k v (s.withHistory p) = historyRun p (k v s)) :
    (historyRun p r).andThen k = historyRun p (r.andThen k) := by
  cases r with
  | ok v s => exact hk v s
  | failed s => rfl

/-- So does a register read, if the rest does. -/
theorem withReg_historyOut {α : Type} (p : List Event) (r : RegName) (v : Option α) {k k' : α → Out}
    (hk : ∀ x, k' x = historyOut p (k x)) : withReg r v k' = historyOut p (withReg r v k) := by
  cases v with
  | some x => exact hk x
  | none => rfl

theorem whenEnabled_withHistory (p : List Event) (s : State) {k : State → Out}
    (hk : ∀ u : State, k (u.withHistory p) = historyOut p (k u)) :
    whenEnabled (s.withHistory p) k = historyOut p (whenEnabled s k) := by
  rw [whenEnabled, whenEnabled, apply_ite (historyOut p), withHistory_blockEnabled, hk]
  rfl

theorem whenEnabled_run_withHistory {α : Type} (p : List Event) (s : State) {f : State → Run α}
    (hf : ∀ u : State, f (u.withHistory p) = historyRun p (f u)) :
    whenEnabled (s.withHistory p) (fun u => .next (f u).state) = historyOut p (whenEnabled s fun u => .next (f u).state) :=
  whenEnabled_withHistory p s fun u => by rw [hf, state_historyRun, historyOut_next]

/-! ### The operations run as a whole -/

theorem sampleLevel_withHistory (p : List Event) (s : State) : sampleLevel (s.withHistory p) = historyRun p (sampleLevel s) := by
  rw [sampleLevel, sampleLevel, withHistory_lineAnswer, withHistory_lineRead]
  cases s.lineAnswer with
  | level l => rfl
  | err c => exact congrArg Run.failed (withHistory_failEntry p _ _)

theorem pollLoop_withHistory (P : Config.Params) (T : Level) (p : List Event) (left : Nat) (cnt : BitVec 7) (s : State) :
    pollLoop P T left cnt (s.withHistory p) = historyRun p (pollLoop P T left cnt s) := by
  induction left generalizing cnt s with
  | zero => exact congrArg Run.failed (withHistory_failEntry p _ _)
  | succ left ih =>
    rw [pollLoop, pollLoop, withHistory_lineAnswer, withHistory_check, withHistory_owedDelay, ih]
    cases s.lineAnswer with
    | err c => exact congrArg Run.failed (withHistory_failEntry p _ _)
    | level l =>
      simp only [apply_ite (historyRun p), historyRun_ok, historyRun_failed, ← withHistory_failEntry,
        apply_ite (State.withHistory p)]

theorem poll_withHistory (P : Config.Params) (T : Level) (p : List Event) (s : State) :
    poll P T (s.withHistory p) = historyRun p (poll P T s) :=
  pollLoop_withHistory P T p P.budget 0 s.waitReset

theorem sampleBit_withHistory (P : Config.Params) (p : List Event) (s : State) :
    sampleBit P (s.withHistory p) = historyRun p (sampleBit P s) := by
  rw [sampleBit, poll_withHistory]
  refine andThen_historyRun p _ fun _ s => ?_
  rw [withHistory_delay, sampleLevel_withHistory]
  refine andThen_historyRun p _ fun b s => ?_
  rw [poll_withHistory]
  exact andThen_historyRun p _ fun _ _ => rfl

theorem readBits_withHistory (P : Config.Params) (p : List Event) (left : Nat) (i : BitVec 3) (sh : Byte) (s : State) :
    readBits P left i sh (s.withHistory p) = historyRun p (readBits P left i sh s) := by
  induction left generalizing i sh s with
  | zero => rfl
  | succ left ih =>
    have hbit := sampleBit_withHistory P p { s with bitIdx := some i }
    exact (congrArg (Run.andThen · _) hbit).trans (andThen_historyRun p _ fun b t =>
      ih (i + 1) (foldBit sh b) { t with shift := some (foldBit sh b) })

theorem readByte_withHistory (P : Config.Params) (slot : BitVec 3) (p : List Event) (s : State) :
    readByte P slot (s.withHistory p) = historyRun p (readByte P slot s) := by
  have hbits := readBits_withHistory P p Config.bitsPerByte 0 0 { s with shift := some 0 }
  exact (congrArg (Run.andThen · _) hbits).trans (andThen_historyRun p _ fun _ _ => rfl)

theorem validate_withHistory (p : List Event) (s : State) : validate (s.withHistory p) = historyOut p (validate s) := by
  refine withReg_historyOut p _ _ fun d0 => withReg_historyOut p _ _ fun d1 => withReg_historyOut p _ _ fun d2 =>
    withReg_historyOut p _ _ fun d3 => withReg_historyOut p _ _ fun c => ?_
  rw [apply_ite (historyOut p), withHistory_okEntry, withHistory_failEntry]
  rfl

/-- Each operation, run on its own or written to the host port, does the same after more events. -/
theorem exec_withHistory (i : Instr) (p : List Event) (s : State) : exec i (s.withHistory p) = historyOut p (exec i s) := by
  cases i with
  | driveHigh =>
    exact whenEnabled_withHistory p s (k := fun u => .next u.lineDriveHigh) fun u =>
      congrArg _ (withHistory_lineDriveHigh p u)
  | readLevel => exact whenEnabled_run_withHistory p s (f := sampleLevel) (sampleLevel_withHistory p)
  | delay n =>
    simp only [exec, execDelay, apply_ite (historyOut p), historyOut_refused]
    rw [whenEnabled_withHistory p s fun u => congrArg _ (withHistory_delay p _ u)]
  | pollLow => exact whenEnabled_run_withHistory p s (f := poll _ _) (poll_withHistory _ _ p)
  | pollHigh => exact whenEnabled_run_withHistory p s (f := poll _ _) (poll_withHistory _ _ p)
  | sampleBit => exact whenEnabled_run_withHistory p s (f := sampleBit _) (sampleBit_withHistory _ p)
  | readByte slot =>
    simp only [exec, execReadByte, apply_ite (historyOut p), historyOut_refused]
    rw [whenEnabled_run_withHistory p s (readByte_withHistory Config.hw slot p)]
  | validate => exact whenEnabled_withHistory p s (validate_withHistory p)
  | readFrame =>
    simp only [exec, execReadFrame, apply_ite (historyOut p), historyOut_next, withHistory_busy, withHistory_accept]
  | abort => simp only [exec, execAbort, apply_ite (historyOut p), historyOut_next, withHistory_busy, withHistory_abortRead]

/-! ### The step machine -/

theorem pollStep_withHistory (P : Config.Params) (T : Level) (p : List Event) (s : State) {K : State → Out}
    (hK : ∀ u : State, K (u.withHistory p) = historyOut p (K u)) :
    pollStep P T K (s.withHistory p) = historyOut p (pollStep P T K s) := by
  refine withReg_historyOut p _ _ fun cnt => withReg_historyOut p _ _ fun owed => ?_
  rw [withHistory_lineAnswer, withHistory_check, withHistory_failEntry, hK]
  have hd := withHistory_issueDelay p Config.pollDelay { s with pdly := some false }
  cases s.lineAnswer with
  | err c =>
    simp only [apply_ite (historyOut p), historyOut_fault, historyOut_next, withHistory_failEntry, ← hd]
    rfl
  | level l =>
    simp only [apply_ite (historyOut p), historyOut_fault, historyOut_next, withHistory_failEntry, ← hd]
    rfl

theorem foldNext_withHistory (p : List Event) (s : State) : foldNext (s.withHistory p) = historyOut p (foldNext s) := by
  refine withReg_historyOut p _ _ fun sh => withReg_historyOut p _ _ fun b => withReg_historyOut p _ _ fun i => ?_
  rw [apply_ite (historyOut p)]
  congr 1
  refine withReg_historyOut p _ _ fun j => ?_
  simp only [apply_ite (historyOut p)]
  rfl

theorem atSubZero_withHistory (p : List Event) (s : State) {k : State → Out}
    (hk : k (s.withHistory p) = historyOut p (k s)) : atSubZero k (s.withHistory p) = historyOut p (atSubZero k s) := by
  rw [atSubZero, atSubZero, apply_ite (historyOut p), hk]
  rfl

theorem startPulseStep_withHistory (p : List Event) (s : State) :
    startPulseStep (s.withHistory p) = historyOut p (startPulseStep s) := by
  have hd := withHistory_issueDelay p Config.startDelay ({ s with phase := .awaitAckHigh, sub := 0 } : State).waitReset
  rw [startPulseStep, startPulseStep, withHistory_lineDriveHigh]
  simp only [apply_ite (historyOut p), historyOut_next, ← hd]
  rfl

theorem sampleStep_withHistory (p : List Event) (s : State) : sampleStep (s.withHistory p) = historyOut p (sampleStep s) := by
  rw [sampleStep, sampleStep, sampleLevel_withHistory]
  cases sampleLevel s with
  | ok b t => rfl
  | failed t => rfl

theorem readByteStep_withHistory (P : Config.Params) (p : List Event) (s : State) :
    readByteStep P (s.withHistory p) = historyOut p (readByteStep P s) := by
  have hd := withHistory_issueDelay p Config.sampleDelay { s with sub := 2 }
  rw [readByteStep, readByteStep, pollStep_withHistory P .high p s fun _ => rfl, sampleStep_withHistory,
    pollStep_withHistory P .low p s (foldNext_withHistory p)]
  simp only [apply_ite (historyOut p), historyOut_next, ← hd]
  rfl

theorem blockStep_withHistory (P : Config.Params) (p : List Event) (s : State) :
    blockStep P (s.withHistory p) = historyOut p (blockStep P s) := by
  rw [blockStep, blockStep, withHistory_phase]
  cases s.phase with
  | idle => rfl
  | startPulse => exact startPulseStep_withHistory p s
  | awaitAckHigh => exact atSubZero_withHistory p s (pollStep_withHistory P .high p s fun _ => rfl)
  | awaitAckLow => exact atSubZero_withHistory p s (pollStep_withHistory P .low p s fun _ => rfl)
  | readByte => exact readByteStep_withHistory P p s
  | validate => exact atSubZero_withHistory p s (validate_withHistory p s)
  | done => rfl
  | failed => rfl

theorem blockTurn_withHistory (P : Config.Params) (p : List Event) (s : State) :
    blockTurn P (s.withHistory p) = historyOut p (blockTurn P s) := by
  rw [blockTurn, blockTurn, apply_ite (historyOut p), withHistory_blockEnabled, blockStep_withHistory]
  rfl

theorem timeTurn_withHistory (p : List Event) (s : State) : (s.withHistory p).timeTurn = s.timeTurn.withHistory p := by
  rw [State.timeTurn, State.timeTurn, apply_ite (State.withHistory p), withHistory_susp, withHistory_delayDone]

theorem hostWrite_withHistory (w : Word) (p : List Event) (s : State) :
    hostWrite w (s.withHistory p) = historyOut p (hostWrite w s) := by
  rw [hostWrite, hostWrite]
  cases decode w with
  | ok i => simp only [apply_ite (historyOut p), historyOut_next, exec_withHistory]
  | error _ => rfl

theorem harnessRun_withHistory (w : Word) (p : List Event) (s : State) :
    harnessRun w (s.withHistory p) = historyOut p (harnessRun w s) := by
  rw [harnessRun, harnessRun]
  cases decode w with
  | ok i => exact exec_withHistory i p s
  | error r => rfl

theorem runMove_withHistory (m : Move) (p : List Event) (s : State) :
    runMove m (s.withHistory p) = historyOut p (runMove m s) := by
  cases m with
  | block => exact blockTurn_withHistory Config.hw p s
  | timeSource => exact congrArg _ (timeTurn_withHistory p s)
  | host w => exact hostWrite_withHistory w p s
  | lineUser on => rfl

theorem runInput_withHistory (i : Input) (p : List Event) (s : State) :
    runInput i (s.withHistory p) = historyOut p (runInput i s) := by
  cases i with
  | turn u =>
    simp only [runInput, apply_ite (historyOut p), historyOut_next, historyOut_refused, withHistory_lineConflict,
      withHistory_resetBlock, runMove_withHistory]
  | harness w =>
    simp only [runInput, apply_ite (historyOut p), historyOut_refused, withHistory_lineConflict, harnessRun_withHistory]

/-- No step depends on the events recorded before it (rule R124). -/
theorem step_withHistory (p : List Event) (s : State) : step (s.withHistory p) = historyOut p (step s) :=
  runInput_withHistory s.nextInput p s.takeInput

/-! ### Acceptance -/

theorem exec_readFrame_of_not_busy {s : State} (h : s.busy = false) : exec .readFrame s = .next s.accept := by
  simp [exec, execReadFrame, h]

/-- Acceptance writes every register but `SUSP`: two states that agree on it and on the environment are the same after it, but for
the trace (rules R30 and R91). -/
theorem accept_eq_of_sameEnvironment {s t : State} (hsusp : s.susp = t.susp) (hin : s.inputs = t.inputs)
    (hline : s.line = t.line) (hdrive : s.drive = t.drive) (hdraws : s.draws = t.draws)
    (hshared : s.lineShared = t.lineShared) : { s.accept with trace := [] } = { t.accept with trace := [] } := by
  simp only [State.accept, hsusp, hin, hline, hdrive, hdraws, hshared]

/-- Settles O35: acceptance overwrites what an earlier read left, and no step looks at the trace. -/
theorem nothingOfAnEarlierReadReachesTheNext : Obligations.NothingOfAnEarlierReadReachesTheNext := by
  refine ⟨fun s t hs ht hsusp hin hline hdrive hdraws hshared => ?_, step_withHistory⟩
  exact ⟨s.accept, t.accept, exec_readFrame_of_not_busy hs, exec_readFrame_of_not_busy ht, rfl, rfl,
    accept_eq_of_sameEnvironment hsusp hin hline hdrive hdraws hshared⟩

end Sys2Proof.Machine
end

section
/-! PROOF. What a step adds to the trace, said once for an operation run as a whole and once for the block's step; from it, that no
port operation overtakes a delay, that a result is written in one step, and that the line is driven high only. -/

namespace Sys2Proof.Machine

/-! ### The events added -/

/-- The trace of `t` is that of `s` with events added, and each drive among them drives the line high (rules R38 and R40). -/
def AddsEvents (s t : State) : Prop := ∃ es, t.trace = s.trace ++ es ∧ ∀ e ∈ es, ∀ l r, e = .drive l r → l = .high

theorem AddsEvents.refl (s : State) : AddsEvents s s := ⟨[], by simp, by simp⟩

theorem AddsEvents.trans {s t u : State} (h : AddsEvents s t) (k : AddsEvents t u) : AddsEvents s u := by
  obtain ⟨es, he, hes⟩ := h
  obtain ⟨fs, hf, hfs⟩ := k
  refine ⟨es ++ fs, by rw [hf, he, List.append_assoc], fun e hm => ?_⟩
  rcases List.mem_append.mp hm with hm | hm
  · exact hes e hm
  · exact hfs e hm

/-- Events without a drive may be added. -/
theorem AddsEvents.of_driveCount {s t : State} {es : List Event} (ht : t.trace = s.trace ++ es) (h : driveCount es = 0) :
    AddsEvents s t := by
  refine ⟨es, ht, fun e he l r hd => ?_⟩
  have := List.countP_eq_zero.mp h e he
  simp [hd, Event.isDrive] at this

/-- So may a drive high. -/
theorem lineDriveHigh_addsEvents (s : State) : AddsEvents s s.lineDriveHigh :=
  ⟨[.drive .high s.driveAnswer], rfl, by simp⟩

theorem AddsEvents.drivesHigh {s t : State} (h : AddsEvents s t) (hs : s.drivesHigh) : t.drivesHigh := by
  obtain ⟨es, he, hes⟩ := h
  intro e hm
  rcases List.mem_append.mp (he ▸ hm) with hm | hm
  · exact hs e hm
  · exact hes e hm

theorem SubStepKeeps.addsEvents {s t : State} (h : SubStepKeeps s t) : AddsEvents s t := by
  obtain ⟨es, he, hd⟩ := h.trace
  exact .of_driveCount he hd

/-! ### An operation run as a whole -/

/-- The bits of a byte leave no delay outstanding and add events (rule R88). -/
theorem readBits_adds (P : Config.Params) (left : Nat) (i : BitVec 3) (sh : Byte) (s : State) (h : s.susp = false) :
    (readBits P left i sh s).state.susp = false ∧ AddsEvents s (readBits P left i sh s).state := by
  induction left generalizing i sh s with
  | zero => exact ⟨h, .refl s⟩
  | succ left ih =>
    have hk := (sampleBit_subStep P { s with bitIdx := some i } h).keeps
    unfold readBits
    generalize sampleBit P { s with bitIdx := some i } = r at hk
    cases r with
    | failed t => exact ⟨hk.susp, hk.addsEvents⟩
    | ok b t =>
      obtain ⟨hu, ha⟩ := ih (i + 1) (foldBit sh b) { t with shift := some (foldBit sh b) } hk.susp
      exact ⟨hu, hk.addsEvents.trans ha⟩

/-- So does a byte read (rule R88). -/
theorem readByte_adds (P : Config.Params) (slot : BitVec 3) (s : State) (h : s.susp = false) :
    (readByte P slot s).state.susp = false ∧ AddsEvents s (readByte P slot s).state := by
  have hk := readBits_adds P Config.bitsPerByte 0 0 { s with shift := some 0 } h
  unfold readByte
  generalize readBits P Config.bitsPerByte 0 0 { s with shift := some 0 } = r at hk
  cases r with
  | failed t => exact hk
  | ok b t => exact hk

/-- What an operation run as a whole can do: nothing, the host's two commands, or an internal operation of the enabled block, whose
delays are completed within it (rules R91, R96, R131). -/
inductive ExecTo (s : State) : State → Prop where
  | unchanged : ExecTo s s
  | accepts (hb : s.busy = false) : ExecTo s s.accept
  | aborts (hb : s.busy = true) : ExecTo s s.abortRead
  | runs (t : State) (he : s.blockEnabled = true) (hu : t.susp = false) (ha : AddsEvents s t) : ExecTo s t

theorem whenEnabled_execTo {s t : State} {k : State → Out} (h : whenEnabled s k = .next t)
    (hk : s.susp = false → k s = .next t → t.susp = false ∧ AddsEvents s t) : ExecTo s t := by
  unfold whenEnabled at h
  split at h
  · rename_i he
    obtain ⟨hu, ha⟩ := hk (blockEnabled_iff.mp he).2 h
    exact .runs t he hu ha
  · cases h
    exact .unchanged

/-- An operation that is a run of the enabled block. -/
theorem whenEnabled_run_execTo {α : Type} {s t : State} {r : State → Run α}
    (h : whenEnabled s (fun u => .next (r u).state) = .next t)
    (hr : s.susp = false → (r s).state.susp = false ∧ AddsEvents s (r s).state) : ExecTo s t :=
  whenEnabled_execTo h fun hu ht => by
    cases ht
    exact hr hu

theorem SubStep.adds {α : Type} {s : State} {r : Run α} (h : SubStep s r) :
    r.state.susp = false ∧ AddsEvents s r.state := ⟨h.keeps.susp, h.keeps.addsEvents⟩

theorem exec_next {i : Instr} {s t : State} (h : exec i s = .next t) : ExecTo s t := by
  cases i with
  | driveHigh =>
    exact whenEnabled_execTo (k := fun u => .next u.lineDriveHigh) h fun hu hk => by
      cases hk
      exact ⟨hu, lineDriveHigh_addsEvents s⟩
  | readLevel => exact whenEnabled_run_execTo h fun hu => (sampleLevel_subStep s hu).adds
  | delay n =>
    simp only [exec, execDelay] at h
    split at h
    · cases h
    · exact whenEnabled_execTo h fun _ hk => by
        cases hk
        exact ⟨rfl, (delay_keeps _ s).addsEvents⟩
  | pollLow => exact whenEnabled_run_execTo h fun hu => (poll_subStep Config.hw .low s hu).adds
  | pollHigh => exact whenEnabled_run_execTo h fun hu => (poll_subStep Config.hw .high s hu).adds
  | sampleBit => exact whenEnabled_run_execTo h fun hu => (sampleBit_subStep Config.hw s hu).adds
  | readByte slot =>
    simp only [exec, execReadByte] at h
    split at h
    · cases h
    · exact whenEnabled_run_execTo h fun hu => readByte_adds Config.hw slot s hu
  | validate =>
    refine whenEnabled_execTo h fun hu hk => ?_
    cases validate_next hk with
    | accepts => exact ⟨hu, .of_driveCount (State.okEntry_trace _ s) rfl⟩
    | rejects => exact ⟨hu, .of_driveCount (State.failEntry_trace _ s) rfl⟩
  | readFrame =>
    simp only [exec, execReadFrame] at h
    split at h
    · cases h
      exact .unchanged
    · rename_i hb
      cases h
      exact .accepts (by simpa using hb)
  | abort =>
    simp only [exec, execAbort] at h
    split at h
    · rename_i hb
      cases h
      exact .aborts hb
    · cases h
      exact .unchanged

/-! ### The block's step -/

/-- What a step of the block does to `SUSP`, the result and the trace: it goes on, issues one delay as its only event, or ends the
read with the result as its last event (rules R24, R40, R99). -/
inductive BlockEffect (s t : State) : Prop where
  | goesOn (hu : t.susp = s.susp) (hr : t.resultValid = s.resultValid) (ha : AddsEvents s t)
  | delays (n : Nat) (hb : t.busy = true) (hr : t.resultValid = s.resultValid) (ht : t.trace = s.trace ++ [.delay n])
  | ends (hu : t.susp = s.susp) (hp : t.phase = .done ∨ t.phase = .failed) (ha : AddsEvents s t)
      (hl : t.trace.getLast? = some (.result t.status t.cause t.outData))

theorem failEntry_blockEffect {s u : State} (k : FailKind) (hu : u.susp = s.susp) (ha : AddsEvents s u) :
    BlockEffect s (u.failEntry k) :=
  .ends hu (.inr rfl) (ha.trans (.of_driveCount (State.failEntry_trace k u) rfl)) (by simp)

theorem okEntry_blockEffect (s : State) (d : Payload) : BlockEffect s (s.okEntry d) :=
  .ends rfl (.inl rfl) (.of_driveCount (State.okEntry_trace d s) rfl) (by simp)

/-- A check adds its read. -/
theorem check_addsEvents (s : State) (cnt : BitVec 7) : AddsEvents s (s.check cnt) := .of_driveCount (State.check_trace cnt s) rfl

/-- A step of a wait has such an effect, if what follows the wait adds no event (rule R100). -/
theorem PollStepTo.blockEffect {P : Config.Params} {T : Level} {K : State → Out} {s t : State} (h : PollStepTo P T K s t)
    (hb : s.busy = true)
    (hK : ∀ u, K u = .next t → t.susp = u.susp ∧ t.resultValid = u.resultValid ∧ t.trace = u.trace) : BlockEffect s t := by
  cases h with
  | timeout => exact failEntry_blockEffect _ rfl (.refl s)
  | delay => exact .delays Config.pollDelay hb rfl rfl
  | error cnt => exact failEntry_blockEffect _ rfl (check_addsEvents s cnt)
  | lastMiss cnt => exact failEntry_blockEffect _ rfl (check_addsEvents s cnt)
  | found cnt _ _ _ _ _ hk =>
    obtain ⟨hu, hr, ht⟩ := hK _ hk
    exact .goesOn hu hr (.of_driveCount (ht.trans (State.check_trace cnt s)) rfl)
  | miss cnt => exact .goesOn rfl rfl (check_addsEvents s cnt)

/-- The fold adds no event (rule R101). -/
theorem FoldNextTo.keeps {s t : State} (h : FoldNextTo s t) :
    t.susp = s.susp ∧ t.resultValid = s.resultValid ∧ t.trace = s.trace := by
  cases h with
  | nextBit => exact ⟨rfl, rfl, rfl⟩
  | nextByte => exact ⟨rfl, rfl, rfl⟩
  | lastByte => exact ⟨rfl, rfl, rfl⟩

theorem BlockStepTo.blockEffect {P : Config.Params} {s t : State} (h : BlockStepTo P s t) : BlockEffect s t := by
  cases h with
  | waits => exact .goesOn rfl rfl (.refl s)
  | drives => exact .goesOn rfl rfl (lineDriveHigh_addsEvents s)
  | startDelay => exact .delays Config.startDelay rfl rfl rfl
  | ackHigh _ hp _ h => exact h.blockEffect (busy_of_phase hp) fun u hk => by cases hk; exact ⟨rfl, rfl, rfl⟩
  | ackLow _ hp _ h => exact h.blockEffect (busy_of_phase hp) fun u hk => by cases hk; exact ⟨rfl, rfl, rfl⟩
  | rise _ hp _ h => exact h.blockEffect (busy_of_phase hp) fun u hk => by cases hk; exact ⟨rfl, rfl, rfl⟩
  | midDelay hp => exact .delays Config.sampleDelay (busy_of_phase hp) rfl rfl
  | sample => exact .goesOn rfl rfl (.of_driveCount (State.lineRead_trace s) rfl)
  | sampleError c => exact failEntry_blockEffect _ rfl (.of_driveCount (State.lineRead_trace s) rfl)
  | fall _ hp _ h => exact h.blockEffect (busy_of_phase hp) fun u hk => (foldNext_next hk).keeps
  | validates _ _ _ h =>
    cases h with
    | accepts d => exact okEntry_blockEffect s d
    | rejects => exact failEntry_blockEffect _ rfl (.refl s)

theorem BlockEffect.addsEvents {s t : State} (h : BlockEffect s t) : AddsEvents s t := by
  cases h with
  | goesOn _ _ ha => exact ha
  | delays n _ _ ht => exact .of_driveCount ht rfl
  | ends _ _ ha => exact ha

/-! ### No port operation overtakes a delay -/

theorem delayInv_of_not_susp {s : State} (h : s.susp = false) : s.delayInv := ⟨fun _ => h, by simp [h]⟩

/-- From a state with no delay outstanding, the block's step leaves one outstanding only where it issued it last (rule R40). -/
theorem BlockEffect.delayInv {s t : State} (h : BlockEffect s t) (hs : s.susp = false) : t.delayInv := by
  cases h with
  | goesOn hu => exact delayInv_of_not_susp (hu.trans hs)
  | delays n hb _ ht => exact ⟨by simp [hb], fun _ => ⟨n, by simp [ht]⟩⟩
  | ends hu => exact delayInv_of_not_susp (hu.trans hs)

theorem ExecTo.delayInv {s t : State} (h : ExecTo s t) (hs : s.delayInv) : t.delayInv := by
  cases h with
  | unchanged => exact hs
  | accepts hb => exact delayInv_of_not_susp (s := s.accept) (hs.1 hb)
  | aborts => exact delayInv_of_not_susp rfl
  | runs _ _ hu => exact delayInv_of_not_susp hu

theorem RunInputTo.delayInv {i : Input} {s t : State} (h : RunInputTo i s t) (hs : s.delayInv) : t.delayInv := by
  cases h with
  | reset => exact delayInv_of_not_susp rfl
  | block _ _ he h => exact h.blockEffect.delayInv (blockEnabled_iff.mp he).2
  | blockWaits => exact hs
  | timeSource =>
    unfold State.timeTurn
    split
    · exact delayInv_of_not_susp rfl
    · exact hs
  | lineUser => exact hs
  | accept _ _ _ hb => exact delayInv_of_not_susp (s := s.accept) (hs.1 hb)
  | abort => exact delayInv_of_not_susp rfl
  | ignored => exact hs
  | harness _ _ _ _ _ h => exact (exec_next h).delayInv hs

/-- Settles O49: a step starts with no delay outstanding, or leaves the outstanding one alone, or completes or abandons it. -/
theorem nothingOvertakesADelay : Obligations.NothingOvertakesADelay :=
  ⟨delayInv_of_not_susp rfl, fun s _ hs h => (step_next h).delayInv (s := s.takeInput) hs⟩

/-! ### The line is driven high only -/

theorem ExecTo.addsEvents {s t : State} (h : ExecTo s t) : AddsEvents s t := by
  cases h with
  | unchanged => exact .refl s
  | accepts => exact .of_driveCount (State.accept_trace s) rfl
  | aborts => exact .of_driveCount (State.abortRead_trace s) rfl
  | runs _ _ _ ha => exact ha

theorem timeTurn_addsEvents (s : State) : AddsEvents s s.timeTurn := by
  unfold State.timeTurn
  split
  · exact .of_driveCount (State.delayDone_trace s) rfl
  · exact .refl s

theorem RunInputTo.addsEvents {i : Input} {s t : State} (h : RunInputTo i s t) : AddsEvents s t := by
  cases h with
  | reset => exact .refl s
  | block _ _ _ h => exact h.blockEffect.addsEvents
  | blockWaits => exact .refl s
  | timeSource => exact timeTurn_addsEvents s
  | lineUser => exact .refl s
  | accept => exact .of_driveCount (State.accept_trace s) rfl
  | abort => exact .of_driveCount (State.abortRead_trace s) rfl
  | ignored => exact .refl s
  | harness _ _ _ _ _ h => exact (exec_next h).addsEvents

/-- Settles O50: whatever a step runs, it adds events to the trace, and each drive among them drives the line high. -/
theorem theBlockNeverDrivesLow : Obligations.TheBlockNeverDrivesLow := by
  intro s t h
  have ha : AddsEvents s t := (step_next h).addsEvents
  refine ⟨ha.drivesHigh, ?_⟩
  obtain ⟨es, he, -⟩ := ha
  exact ⟨es, he⟩

/-! ### A result is written in one step -/

/-- A completion writes no result (rule R98). -/
theorem timeTurn_resultValid (s : State) : s.timeTurn.resultValid = s.resultValid := by
  unfold State.timeTurn
  split
  · rfl
  · rfl

/-- A turn of the hardware that makes a result valid is the enabled block's, and ends the read (rules R24 and R49). -/
theorem RunInputTo.block_of_resultValid {u : Turn} {s t : State} (h : RunInputTo (.turn u) s t) (hs : s.resultValid = false)
    (ht : t.resultValid = true) :
    s.busy = true ∧ .turn u = moveTurn .block ∧ (t.phase = .done ∨ t.phase = .failed) ∧
      t.trace.getLast? = some (.result t.status t.cause t.outData) := by
  cases h with
  | block _ hi he h =>
    cases h.blockEffect with
    | goesOn _ hr => simp [hr, hs] at ht
    | delays _ _ hr => simp [hr, hs] at ht
    | ends _ hp _ hl => exact ⟨(blockEnabled_iff.mp he).1, hi, hp, hl⟩
  | timeSource =>
    rw [timeTurn_resultValid, hs] at ht
    cases ht
  | reset | accept => simp at ht
  | abort | blockWaits | lineUser | ignored => simp [hs] at ht
  | harness _ _ _ hi => cases hi

/-- Settles O43: of all turns only the block's makes a result valid, and its step that does so ends the read. -/
theorem resultIsWrittenInOneStep : Obligations.ResultIsWrittenInOneStep := by
  intro s t hh hs h ht
  obtain ⟨u, hu⟩ := nextInput_eq_turn hh
  rw [hu]
  exact (hu ▸ step_next h).block_of_resultValid (s := s.takeInput) hs ht

end Sys2Proof.Machine
end

section
/-! PROOF. Bits read most significant first: the number they spell, the byte they fold into, and the data word of four bytes. -/

namespace Sys2Proof.Machine

/-! ### The number that bits spell -/

theorem bitsValue_foldl (bs : List (BitVec 1)) (n : Nat) :
    bs.foldl (fun acc b => 2 * acc + b.toNat) n = n * 2 ^ bs.length + bitsValue bs := by
  induction bs generalizing n with
  | nil => simp [bitsValue]
  | cons b bs ih =>
    rw [bitsValue, List.foldl_cons, List.foldl_cons, ih, ih (2 * 0 + b.toNat), List.length_cons]
    ring

theorem bitsValue_append (as bs : List (BitVec 1)) : bitsValue (as ++ bs) = bitsValue as * 2 ^ bs.length + bitsValue bs := by
  rw [bitsValue, List.foldl_append, bitsValue_foldl]
  rfl

@[simp] theorem bitsOf_length (d : Byte) : (bitsOf d).length = 8 := by simp [bitsOf]

/-- The first `n` bits of a byte in wire order spell its high part (rule R44). -/
theorem bitsValue_first_bits (d : Byte) (n : Nat) (hn : n ≤ 8) :
    bitsValue ((List.range n).map fun i => d.extractLsb' (7 - i) 1) = d.toNat / 2 ^ (8 - n) := by
  induction n with
  | zero =>
    have := d.isLt
    simp [bitsValue]
    omega
  | succ n ih =>
    have hd : d.toNat / 2 ^ (8 - n) = d.toNat / 2 ^ (7 - n) / 2 := by
      rw [Nat.div_div_eq_div_mul, ← pow_succ, show 8 - n = 7 - n + 1 by omega]
    rw [List.range_succ, List.map_append, bitsValue_append, ih (by omega), hd, show 8 - (n + 1) = 7 - n by omega]
    simp [bitsValue, BitVec.extractLsb'_toNat, Nat.shiftRight_eq_div_pow]
    omega

/-- A byte is the number its bits spell in wire order (rule R44). -/
theorem bitsValue_bitsOf (d : Byte) : bitsValue (bitsOf d) = d.toNat := by
  rw [bitsOf, bitsValue_first_bits d 8 le_rfl, Nat.sub_self, pow_zero, Nat.div_one]

/-! ### The byte that bits fold into -/

/-- Folding bits into `SHIFT` keeps the number they spell, mod 256 (rules R18 and R88). -/
theorem foldl_foldBit_toNat (bs : List (BitVec 1)) (sh : Byte) :
    (bs.foldl foldBit sh).toNat = (sh.toNat * 2 ^ bs.length + bitsValue bs) % 256 := by
  induction bs generalizing sh with
  | nil => simp [bitsValue, Nat.mod_eq_of_lt sh.isLt]
  | cons b bs ih =>
    have hv : bitsValue (b :: bs) = b.toNat * 2 ^ bs.length + bitsValue bs := by
      simpa [bitsValue] using bitsValue_foldl bs b.toNat
    have hb := b.isLt
    have hm : 2 * sh.toNat % 256 + b.toNat = (2 * sh.toNat + b.toNat) % 256 := by omega
    rw [List.foldl_cons, ih, foldBit_toNat, hv, hm, List.length_cons, Nat.add_mod, Nat.mod_mul_mod, ← Nat.add_mod]
    congr 1
    ring

/-- The eight bits of a byte in wire order fold into that byte (rule R88). -/
theorem foldl_foldBit_bitsOf (d : Byte) : (bitsOf d).foldl foldBit 0 = d := by
  apply BitVec.eq_of_toNat_eq
  have := d.isLt
  rw [foldl_foldBit_toNat, bitsValue_bitsOf]
  simp
  omega

/-! ### The data word -/

/-- The bits of a payload in wire order (rules R43 and R44). -/
def Payload.bits (d : Payload) : List (BitVec 1) := bitsOf d.b0 ++ bitsOf d.b1 ++ bitsOf d.b2 ++ bitsOf d.b3

theorem payload_bits_length (d : Payload) : d.bits.length = 32 := by simp [Payload.bits]

theorem append_byte_toNat {n : Nat} (x : BitVec n) (d : Byte) : (x ++ d).toNat = x.toNat * 2 ^ 8 + d.toNat := by
  rw [BitVec.toNat_append, ← Nat.shiftLeft_add_eq_or_of_lt d.isLt, Nat.shiftLeft_eq]

theorem payload_word_toNat (d : Payload) :
    d.word.toNat = ((d.b0.toNat * 2 ^ 8 + d.b1.toNat) * 2 ^ 8 + d.b2.toNat) * 2 ^ 8 + d.b3.toNat := by
  simp only [Payload.word, append_byte_toNat]

/-- The data word is the number the payload's bits spell (rules R45 and R69). -/
theorem payload_word_eq_bitsValue (d : Payload) : d.word.toNat = bitsValue d.bits := by
  simp only [payload_word_toNat, Payload.bits, bitsValue_append, bitsValue_bitsOf, bitsOf_length]

/-- Each byte of the payload stands in its own eight bits of the data word (rule R69). -/
theorem payload_word_bytes (d : Payload) :
    d.word.extractLsb' 24 8 = d.b0 ∧ d.word.extractLsb' 16 8 = d.b1 ∧ d.word.extractLsb' 8 8 = d.b2 ∧
      d.word.extractLsb' 0 8 = d.b3 := by
  have h0 := d.b0.isLt
  have h1 := d.b1.isLt
  have h2 := d.b2.isLt
  have h3 := d.b3.isLt
  refine ⟨?_, ?_, ?_, ?_⟩ <;>
  · apply BitVec.eq_of_toNat_eq
    rw [BitVec.extractLsb'_toNat, payload_word_toNat, Nat.shiftRight_eq_div_pow]
    omega

end Sys2Proof.Machine
end

section
/-! PROOF. A read that nothing disturbs: the block's steps look at no input to come, so the turns of the time source and the block run
in the core as the block's steps with every delay completed. -/

namespace Sys2Proof.Machine

/-- The state with the inputs `is` to come and no other user of the line. -/
def State.undisturbed (is : List Input) (s : State) : State := { s with inputs := is, lineShared := false }

/-- The outcome with the inputs `is` to come and no other user of the line. -/
def undisturbedOut (is : List Input) : Out → Out
  | .next s => .next (s.undisturbed is)
  | .fault f => .fault f
  | .refused r => .refused r

@[simp] theorem undisturbedOut_next (is : List Input) (s : State) :
    undisturbedOut is (.next s) = .next (s.undisturbed is) := rfl

/-! ### The block's step looks at no input -/

theorem withReg_undisturbed {α : Type} (is : List Input) (r : RegName) (v : Option α) {k k' : α → Out}
    (hk : ∀ x, k' x = undisturbedOut is (k x)) : withReg r v k' = undisturbedOut is (withReg r v k) := by
  cases v with
  | some x => exact hk x
  | none => rfl

theorem atSubZero_undisturbed (is : List Input) (s : State) {k : State → Out}
    (hk : k (s.undisturbed is) = undisturbedOut is (k s)) :
    atSubZero k (s.undisturbed is) = undisturbedOut is (atSubZero k s) := by
  rw [atSubZero, atSubZero, apply_ite (undisturbedOut is), hk]
  rfl

theorem pollStep_undisturbed (P : Config.Params) (T : Level) (is : List Input) (s : State) {K : State → Out}
    (hK : ∀ u : State, K (u.undisturbed is) = undisturbedOut is (K u)) :
    pollStep P T K (s.undisturbed is) = undisturbedOut is (pollStep P T K s) := by
  refine withReg_undisturbed is _ _ fun cnt => withReg_undisturbed is _ _ fun owed => ?_
  have ha : (s.undisturbed is).lineAnswer = s.lineAnswer := rfl
  have hc : (s.undisturbed is).check cnt = (s.check cnt).undisturbed is := rfl
  rw [ha, hc, hK]
  simp only [apply_ite (undisturbedOut is)]
  cases s.lineAnswer with
  | err c => rfl
  | level l =>
    simp only [apply_ite (undisturbedOut is)]
    rfl

theorem foldNext_undisturbed (is : List Input) (s : State) : foldNext (s.undisturbed is) = undisturbedOut is (foldNext s) := by
  refine withReg_undisturbed is _ _ fun sh => withReg_undisturbed is _ _ fun b => withReg_undisturbed is _ _ fun i => ?_
  rw [apply_ite (undisturbedOut is)]
  congr 1
  refine withReg_undisturbed is _ _ fun j => ?_
  simp only [apply_ite (undisturbedOut is)]
  rfl

theorem startPulseStep_undisturbed (is : List Input) (s : State) :
    startPulseStep (s.undisturbed is) = undisturbedOut is (startPulseStep s) := by
  simp only [startPulseStep, apply_ite (undisturbedOut is)]
  rfl

theorem sampleStep_undisturbed (is : List Input) (s : State) :
    sampleStep (s.undisturbed is) = undisturbedOut is (sampleStep s) := by
  have ha : (s.undisturbed is).lineAnswer = s.lineAnswer := rfl
  rw [sampleStep, sampleStep, sampleLevel, sampleLevel, ha]
  cases s.lineAnswer with
  | level l => rfl
  | err c => rfl

theorem readByteStep_undisturbed (P : Config.Params) (is : List Input) (s : State) :
    readByteStep P (s.undisturbed is) = undisturbedOut is (readByteStep P s) := by
  rw [readByteStep, readByteStep, pollStep_undisturbed P .high is s fun _ => rfl, sampleStep_undisturbed,
    pollStep_undisturbed P .low is s (foldNext_undisturbed is)]
  simp only [apply_ite (undisturbedOut is)]
  rfl

theorem validate_undisturbed (is : List Input) (s : State) : validate (s.undisturbed is) = undisturbedOut is (validate s) := by
  refine withReg_undisturbed is _ _ fun d0 => withReg_undisturbed is _ _ fun d1 => withReg_undisturbed is _ _ fun d2 =>
    withReg_undisturbed is _ _ fun d3 => withReg_undisturbed is _ _ fun c => ?_
  rw [apply_ite (undisturbedOut is)]
  rfl

theorem blockStep_undisturbed (P : Config.Params) (is : List Input) (s : State) :
    blockStep P (s.undisturbed is) = undisturbedOut is (blockStep P s) := by
  have hp : (s.undisturbed is).phase = s.phase := rfl
  rw [blockStep, blockStep, hp]
  cases s.phase with
  | idle | done | failed => rfl
  | startPulse => exact startPulseStep_undisturbed is s
  | awaitAckHigh => exact atSubZero_undisturbed is s (pollStep_undisturbed P .high is s fun _ => rfl)
  | awaitAckLow => exact atSubZero_undisturbed is s (pollStep_undisturbed P .low is s fun _ => rfl)
  | readByte => exact readByteStep_undisturbed P is s
  | validate => exact atSubZero_undisturbed is s (validate_undisturbed is s)

/-- The block's turn does the same whatever inputs are to come (rule R98). -/
theorem blockTurn_undisturbed (P : Config.Params) (is : List Input) (s : State) :
    blockTurn P (s.undisturbed is) = undisturbedOut is (blockTurn P s) := by
  have he : (s.undisturbed is).blockEnabled = s.blockEnabled := rfl
  rw [blockTurn, blockTurn, apply_ite (undisturbedOut is), he, blockStep_undisturbed]
  rfl

theorem timeTurn_undisturbed (is : List Input) (s : State) : (s.undisturbed is).timeTurn = s.timeTurn.undisturbed is := by
  rw [State.timeTurn, State.timeTurn, apply_ite (State.undisturbed is)]
  rfl

/-! ### Runs of the core -/

theorem core_run_succ {M : Host.Core} {k : Nat} {s t : M.State} (h : M.step s = .next t) : M.run (k + 1) s = M.run k t := by
  simp only [Host.Core.run, h]

theorem run_succ_of_next {k : Nat} {s t : State} (h : step s = .next t) :
    Host.Core.run core (k + 1) s = Host.Core.run core k t :=
  core_run_succ (M := core) (s := s) (t := t) h

/-- A step that takes a listed move of an undisturbed state runs that move (rule R98). -/
theorem step_undisturbed (m : Move) (is : List Input) (s : State) :
    step (s.undisturbed (moveTurn m :: is)) = runMove m (s.undisturbed is) :=
  if_neg (by simp [State.lineConflict, State.undisturbed, State.takeInput])

/-- `n` turns of the time source and the block. -/
def turnPairs (n : Nat) : List Input := (List.replicate n [moveTurn .timeSource, moveTurn .block]).flatten

/-- The turns of the time source and the block run as the block's steps with every delay completed (rules R98 and R139). -/
theorem run_turnPairs {n : Nat} {s t : State} (h : blockSteps Config.hw n s = .next t) (is : List Input) :
    Host.Core.run core (2 * n) (s.undisturbed (turnPairs n ++ is)) = .next (t.undisturbed is) := by
  induction n generalizing s with
  | zero =>
    cases h
    rfl
  | succ n ih =>
    rw [blockSteps, blockStepDelaysComplete] at h
    split at h
    · rename_i u hu
      have htime : step (s.undisturbed (turnPairs (n + 1) ++ is)) =
          .next (s.timeTurn.undisturbed (moveTurn .block :: (turnPairs n ++ is))) :=
        (step_undisturbed .timeSource _ s).trans (congrArg _ (timeTurn_undisturbed _ s))
      have hblock : step (s.timeTurn.undisturbed (moveTurn .block :: (turnPairs n ++ is))) =
          .next (u.undisturbed (turnPairs n ++ is)) := by
        rw [step_undisturbed, runMove, blockTurn_undisturbed, hu, undisturbedOut_next]
      rw [Nat.mul_succ, run_succ_of_next htime, run_succ_of_next hblock, ih h]
    · cases h
    · cases h

/-- The schedule of a read: the acceptance, then the block's steps with every delay completed. -/
theorem run_readSchedule {n : Nat} {s t : State} (hs : s.cleanEntry = true) (h : blockSteps Config.hw n s.accept = .next t) :
    Host.Core.run core (1 + 2 * n) { s with inputs := readSchedule n } = .next (t.undisturbed []) := by
  have hb : s.busy = false ∧ s.lineShared = false := by simp_all [State.cleanEntry]
  have haccept : step { s with inputs := readSchedule n } = .next (s.accept.undisturbed (turnPairs n ++ [])) := by
    have hin : ({ s with inputs := readSchedule n } : State) = s.undisturbed (moveTurn (.host 0x8000) :: turnPairs n) := by
      rw [State.undisturbed, ← hb.2]
      rfl
    have hw : decode 0x8000 = .ok .readFrame := by decide
    rw [hin, step_undisturbed, runMove, hostWrite, hw, List.append_nil]
    exact exec_readFrame_of_not_busy hb.1
  rw [Nat.add_comm, run_succ_of_next haccept, run_turnPairs h]

end Sys2Proof.Machine
end

section
/-! PROOF. The read of a frame by the block's steps: each wait, bit and byte of the line's script in turn, up to `VALIDATE`, and the
data word that the host then reads. -/

namespace Sys2Proof.Machine

/-! ### What the steps lead to -/

/-- The block's steps, with every delay completed, lead from `s` to a state with the property. -/
def Leads (s : State) (Q : State → Prop) : Prop := ∃ n t, blockSteps Config.hw n s = .next t ∧ Q t

theorem Leads.here {s : State} {Q : State → Prop} (h : Q s) : Leads s Q := ⟨0, s, rfl, h⟩

theorem blockSteps_trans {P : Config.Params} {m n : Nat} {s t u : State} (h : blockSteps P m s = .next t)
    (k : blockSteps P n t = .next u) : blockSteps P (m + n) s = .next u := by
  induction m generalizing s with
  | zero =>
    cases h
    rwa [Nat.zero_add]
  | succ m ih =>
    rw [blockSteps] at h
    rw [Nat.succ_add, blockSteps]
    split at h
    · exact ih h
    · cases h
    · cases h

theorem Leads.trans {s : State} {Q R : State → Prop} (h : Leads s Q) (k : ∀ t, Q t → Leads t R) : Leads s R := by
  obtain ⟨m, t, hm, ht⟩ := h
  obtain ⟨n, u, hn, hu⟩ := k t ht
  exact ⟨m + n, u, blockSteps_trans hm hn, hu⟩

/-- The state with no delay outstanding and the trace `tr`: what the time source's turn makes of it (rule R98). -/
def State.resumed (tr : List Event) (s : State) : State := { s with susp := false, trace := tr }

theorem timeTurn_eq_resumed (s : State) : ∃ tr, s.timeTurn = s.resumed tr := by
  unfold State.timeTurn
  split
  · exact ⟨s.trace ++ [.delayDone], rfl⟩
  · rename_i hu
    have hu : s.susp = false := by simpa using hu
    exact ⟨s.trace, by rw [State.resumed, ← hu]⟩

/-- A busy block takes its step, whatever a completion before it recorded. -/
theorem Leads.step {s : State} {Q : State → Prop} (hb : s.busy = true)
    (h : ∀ tr, ∃ t, blockStep Config.hw (s.resumed tr) = .next t ∧ Leads t Q) : Leads s Q := by
  obtain ⟨tr, htime⟩ := timeTurn_eq_resumed s
  obtain ⟨t, hstep, n, u, hn, hu⟩ := h tr
  have he : (s.resumed tr).blockEnabled = true := blockEnabled_iff.mpr ⟨hb, rfl⟩
  refine ⟨n + 1, u, ?_, hu⟩
  rw [blockSteps, blockStepDelaysComplete, htime, blockTurn, if_pos he, hstep]
  exact hn

/-! ### The block's step by position -/

theorem blockStep_of_awaitAckHigh (P : Config.Params) {s : State} (hp : s.phase = .awaitAckHigh) (h0 : s.sub = 0) :
    blockStep P s = pollStep P .high afterAckHigh s := by
  rw [blockStep, hp]
  exact if_pos h0

theorem blockStep_of_awaitAckLow (P : Config.Params) {s : State} (hp : s.phase = .awaitAckLow) (h0 : s.sub = 0) :
    blockStep P s = pollStep P .low afterAckLow s := by
  rw [blockStep, hp]
  exact if_pos h0

theorem blockStep_of_rise (P : Config.Params) {s : State} (hp : s.phase = .readByte) (h0 : s.sub = 0) :
    blockStep P s = pollStep P .high afterRise s := by
  rw [blockStep, hp]
  exact if_pos h0

theorem blockStep_of_midDelay (P : Config.Params) {s : State} (hp : s.phase = .readByte) (h1 : s.sub = 1) :
    blockStep P s = .next (({ s with sub := 2 }).issueDelay Config.sampleDelay) := by
  simp [blockStep, hp, readByteStep, h1]

theorem blockStep_of_sample (P : Config.Params) {s : State} {l : Level} (hp : s.phase = .readByte) (h2 : s.sub = 2)
    (ha : s.lineAnswer = .level l) :
    blockStep P s = .next ({ s.lineRead with bit := some l.bit, sub := 3 }).waitReset := by
  simp [blockStep, hp, readByteStep, h2, sampleStep, sampleLevel, ha]

theorem blockStep_of_fall (P : Config.Params) {s : State} (hp : s.phase = .readByte) (h3 : s.sub = 3) :
    blockStep P s = pollStep P .low foldNext s := by
  simp [blockStep, hp, readByteStep, h3]

theorem blockStep_of_validate (P : Config.Params) {s : State} (hp : s.phase = .validate) (h0 : s.sub = 0) :
    blockStep P s = validate s := by
  rw [blockStep, hp]
  exact if_pos h0

/-! ### A wait -/

theorem pollStep_found {P : Config.Params} {T : Level} {K : State → Out} {s : State} {cnt : BitVec 7}
    (hc : s.pollCnt = some cnt) (hd : s.pdly = some false) (hb : cnt.toNat < P.budget) (ha : s.lineAnswer = .level T) :
    pollStep P T K s = K (s.check cnt) := by
  simp [pollStep, hc, hd, ha, hb.ne, hb.le.not_gt]

theorem pollStep_miss {P : Config.Params} {T : Level} {K : State → Out} {s : State} {cnt : BitVec 7}
    (hc : s.pollCnt = some cnt) (hd : s.pdly = some false) (hb : cnt.toNat < P.budget)
    (ha : s.lineAnswer = .level T.other) (hP : P.delayAfterLast = true) :
    pollStep P T K s = .next { s.check cnt with pdly := some true } := by
  simp [pollStep, hc, hd, ha, hb.ne, hb.le.not_gt, other_ne, hP]

theorem pollStep_owed {P : Config.Params} {T : Level} {K : State → Out} {s : State} {cnt : BitVec 7}
    (hc : s.pollCnt = some cnt) (hd : s.pdly = some true) (hb : cnt.toNat ≤ P.budget) :
    pollStep P T K s = .next (({ s with pdly := some false }).issueDelay Config.pollDelay) := by
  simp [pollStep, hc, hd, hb.not_gt]

theorem SameButCounters.trans {s t u : State} (h : SameButCounters s t) (k : SameButCounters t u) : SameButCounters s u :=
  ⟨k.phase.trans h.phase, k.sub.trans h.sub, k.byteIdx.trans h.byteIdx, k.bitIdx.trans h.bitIdx, k.shift.trans h.shift,
    k.bit.trans h.bit, k.frame.trans h.frame, k.inputs.trans h.inputs, k.resultValid.trans h.resultValid,
    k.status.trans h.status, k.cause.trans h.cause, k.outData.trans h.outData⟩

theorem resumed_sameButCounters (tr : List Event) (s : State) : SameButCounters s (s.resumed tr) :=
  ⟨rfl, rfl, rfl, rfl, rfl, rfl, rfl, rfl, rfl, rfl, rfl, rfl⟩

section Wait

variable {T : Level} {K : State → Out} {Q : State → Prop} {s : State} {cnt : BitVec 7}

/-- The delay owed for a check that missed (rule R100). -/
theorem leads_of_owed (hb : s.busy = true)
    (hpos : ∀ u, SameButCounters s u → blockStep Config.hw u = pollStep Config.hw T K u)
    (hc : s.pollCnt = some cnt) (hd : s.pdly = some true) (hm : cnt.toNat ≤ Config.hw.budget)
    (hnext : ∀ t, SameButCounters s t → t.pollCnt = some cnt → t.pdly = some false → t.line = s.line → Leads t Q) :
    Leads s Q := by
  refine .step hb fun tr => ?_
  rw [hpos _ (resumed_sameButCounters tr s), pollStep_owed (s := s.resumed tr) hc hd hm]
  exact ⟨_, rfl, hnext _ ⟨rfl, rfl, rfl, rfl, rfl, rfl, rfl, rfl, rfl, rfl, rfl, rfl⟩ hc rfl rfl⟩

/-- A check that misses, and the delay owed for it (rule R100). -/
theorem leads_of_miss {l : List LineAnswer} (hb : s.busy = true)
    (hpos : ∀ u, SameButCounters s u → blockStep Config.hw u = pollStep Config.hw T K u)
    (hc : s.pollCnt = some cnt) (hd : s.pdly = some false) (hm : cnt.toNat < Config.hw.budget)
    (hl : s.line = .level T.other :: l)
    (hnext : ∀ t, SameButCounters s t → t.pollCnt = some (cnt + 1) → t.pdly = some false → t.line = l → Leads t Q) :
    Leads s Q := by
  refine .step hb fun tr => ?_
  have hs : SameButCounters s { (s.resumed tr).check cnt with pdly := some true } :=
    ⟨rfl, rfl, rfl, rfl, rfl, rfl, rfl, rfl, rfl, rfl, rfl, rfl⟩
  have hle : (cnt + 1).toNat ≤ Config.hw.budget := by
    rw [toNat_succ_of_lt_budget hm]
    exact hm
  rw [hpos _ (resumed_sameButCounters tr s), pollStep_miss (s := s.resumed tr) hc hd hm (lineAnswer_of_cons hl) rfl]
  exact ⟨_, rfl, leads_of_owed hb (fun u hu => hpos u (hs.trans hu)) rfl rfl hle fun t ht hc' hd' hl' =>
    hnext t (hs.trans ht) hc' hd' (hl'.trans (congrArg List.tail hl))⟩

/-- The check that finds the level, and what follows the wait (rule R100). -/
theorem leads_of_found {l : List LineAnswer} (hb : s.busy = true)
    (hpos : ∀ u, SameButCounters s u → blockStep Config.hw u = pollStep Config.hw T K u)
    (hc : s.pollCnt = some cnt) (hd : s.pdly = some false) (hm : cnt.toNat < Config.hw.budget)
    (hl : s.line = .level T :: l)
    (hK : ∀ u, SameButCounters s u → u.susp = false → u.line = l → ∃ t, K u = .next t ∧ Leads t Q) : Leads s Q := by
  refine .step hb fun tr => ?_
  have hs := resumed_sameButCounters tr s
  rw [hpos _ hs, pollStep_found (s := s.resumed tr) hc hd hm (lineAnswer_of_cons hl)]
  exact hK _ (hs.trans (check_sameButCounters _ cnt)) rfl (congrArg List.tail hl)

/-- A wait with `cnt` checks made and `m` more misses to come finds its level within the budget, and then does what follows it. -/
theorem leads_of_misses {l : List LineAnswer} (m : Nat) (hb : s.busy = true)
    (hpos : ∀ u, SameButCounters s u → blockStep Config.hw u = pollStep Config.hw T K u)
    (hc : s.pollCnt = some cnt) (hd : s.pdly = some false) (hm : cnt.toNat + m < Config.hw.budget)
    (hl : s.line = List.replicate m (.level T.other) ++ .level T :: l)
    (hK : ∀ u, SameButCounters s u → u.susp = false → u.line = l → ∃ t, K u = .next t ∧ Leads t Q) : Leads s Q := by
  induction m generalizing s cnt with
  | zero => exact leads_of_found hb hpos hc hd hm hl hK
  | succ m ih =>
    have hlt : cnt.toNat < Config.hw.budget := by omega
    refine leads_of_miss hb hpos hc hd hlt hl fun t ht hc' hd' hl' => ?_
    refine ih (by rwa [State.busy, ht.phase]) (fun u hu => hpos u (ht.trans hu)) hc' hd' ?_ hl' fun u hu => hK u (ht.trans hu)
    rw [toNat_succ_of_lt_budget hlt]
    omega

/-- A wait that the line's script answers at check `k` (rules R78 and R81). -/
theorem leads_of_wait {k : Nat} {l : List LineAnswer} (hb : s.busy = true)
    (hpos : ∀ u, SameButCounters s u → blockStep Config.hw u = pollStep Config.hw T K u)
    (hc : s.pollCnt = some 0) (hd : s.pdly = some false) (hk : 1 ≤ k ∧ k ≤ 100) (hl : s.line = waitAnswers T k ++ l)
    (hK : ∀ u, SameButCounters s u → u.susp = false → u.line = l → ∃ t, K u = .next t ∧ Leads t Q) : Leads s Q :=
  leads_of_misses (k - 1) hb hpos hc hd (show 0 + (k - 1) < 100 by omega) (by simpa [waitAnswers] using hl) hK

end Wait

/-! ### A bit -/

theorem bit_ofBit (b : BitVec 1) : (Level.ofBit b).bit = b := by
  revert b
  decide

/-- READ_BYTE holds the byte index `j`, the bit index `i`, `sh` in `SHIFT` and the frame buffer `f`, and the line will answer `l`
(rules R18, R20 and R22). -/
structure Reading (j i : BitVec 3) (sh : Byte) (f : Frame) (l : List LineAnswer) (s : State) : Prop where
  phase : s.phase = .readByte
  byteIdx : s.byteIdx = some j
  bitIdx : s.bitIdx = some i
  shift : s.shift = some sh
  frame : s.frame = f
  line : s.line = l

/-- The position at which a bit's rise wait starts (rule R99). -/
structure AtBit (j i : BitVec 3) (sh : Byte) (f : Frame) (l : List LineAnswer) (s : State) : Prop
    extends Reading j i sh f l s where
  sub : s.sub = 0
  pollCnt : s.pollCnt = some 0
  pdly : s.pdly = some false

/-- The bit `b` has been sampled and its fall found: the fold is next (rule R101). -/
structure AtFold (j i : BitVec 3) (sh : Byte) (b : BitVec 1) (f : Frame) (l : List LineAnswer) (s : State) : Prop
    extends Reading j i sh f l s where
  susp : s.susp = false
  bit : s.bit = some b

theorem Reading.busy {j i : BitVec 3} {sh : Byte} {f : Frame} {l : List LineAnswer} {s : State}
    (h : Reading j i sh f l s) : s.busy = true := busy_of_phase h.phase

/-- A wait leaves what READ_BYTE holds. -/
theorem Reading.of_sameButCounters {j i : BitVec 3} {sh : Byte} {f : Frame} {l l' : List LineAnswer} {s t : State}
    (h : Reading j i sh f l s) (k : SameButCounters s t) (hl : t.line = l') : Reading j i sh f l' t :=
  ⟨k.phase.trans h.phase, k.byteIdx.trans h.byteIdx, k.bitIdx.trans h.bitIdx, k.shift.trans h.shift, k.frame.trans h.frame, hl⟩

/-- The fall wait of a bit, and its fold (rules R84 and R99). -/
theorem leads_of_fall {j i : BitVec 3} {sh : Byte} {f : Frame} {l : List LineAnswer} {b : BitVec 1} {k : Nat} {s : State}
    {Q : State → Prop} (h : Reading j i sh f (waitAnswers .low k ++ l) s) (h3 : s.sub = 3) (hc : s.pollCnt = some 0)
    (hd : s.pdly = some false) (hbit : s.bit = some b) (hk : 1 ≤ k ∧ k ≤ 100)
    (hfold : ∀ u, AtFold j i sh b f l u → ∃ t, foldNext u = .next t ∧ Leads t Q) : Leads s Q :=
  leads_of_wait h.busy (fun _ hu => blockStep_of_fall _ (hu.phase.trans h.phase) (hu.sub.trans h3)) hc hd hk h.line
    fun u hu hsusp hl => hfold u ⟨h.of_sameButCounters hu hl, hsusp, hu.bit.trans hbit⟩

/-- The mid delay and the sample of a bit, then its fall wait (rules R84 and R99). -/
theorem leads_of_sample {j i : BitVec 3} {sh : Byte} {f : Frame} {l : List LineAnswer} {b : BitVec 1} {k : Nat} {s : State}
    {Q : State → Prop} (h : Reading j i sh f (.level (Level.ofBit b) :: (waitAnswers .low k ++ l)) s) (h1 : s.sub = 1)
    (hk : 1 ≤ k ∧ k ≤ 100) (hfold : ∀ u, AtFold j i sh b f l u → ∃ t, foldNext u = .next t ∧ Leads t Q) : Leads s Q := by
  refine .step h.busy fun tr => ⟨_, blockStep_of_midDelay _ h.phase h1, .step h.busy fun tr' => ⟨_,
    blockStep_of_sample _ h.phase rfl (lineAnswer_of_cons h.line), ?_⟩⟩
  exact leads_of_fall ⟨h.phase, h.byteIdx, h.bitIdx, h.shift, h.frame, congrArg List.tail h.line⟩ rfl rfl rfl
    (congrArg some (bit_ofBit b)) hk hfold

/-- A bit read (rule R84). -/
theorem leads_of_bit {j i : BitVec 3} {sh : Byte} {f : Frame} {l : List LineAnswer} {x : BitScript} {s : State}
    {Q : State → Prop} (h : AtBit j i sh f (x.answers ++ l) s) (hx : x.inBudget = true)
    (hfold : ∀ u, AtFold j i sh x.bit f l u → ∃ t, foldNext u = .next t ∧ Leads t Q) : Leads s Q := by
  simp only [BitScript.inBudget, Bool.and_eq_true, decide_eq_true_eq] at hx
  obtain ⟨⟨hr, hf1⟩, hf⟩ := hx
  refine leads_of_wait h.busy (fun u hu => blockStep_of_rise _ (hu.phase.trans h.phase) (hu.sub.trans h.sub)) h.pollCnt h.pdly
    hr (l := .level (Level.ofBit x.bit) :: (waitAnswers .low x.fall ++ l)) (by simp [h.line, BitScript.answers])
    fun u hu _ hl => ⟨_, rfl, ?_⟩
  obtain ⟨hphase, hj, hi, hsh, hframe, -⟩ := h.toReading.of_sameButCounters hu hl
  exact leads_of_sample ⟨hphase, hj, hi, hsh, hframe, hl⟩ rfl ⟨hf1, hf⟩ hfold

/-! ### A byte -/

/-- `VALIDATE` is next, with the frame buffer `f` and the line's coming answers `l` (rule R99). -/
structure AtValidate (f : Frame) (l : List LineAnswer) (s : State) : Prop where
  phase : s.phase = .validate
  sub : s.sub = 0
  frame : s.frame = f
  line : s.line = l

section Byte

variable {j i : BitVec 3} {sh : Byte} {b : BitVec 1} {f : Frame} {l : List LineAnswer} {s : State} {Q : State → Prop}

theorem foldNext_nextBit (h : AtFold j i sh b f l s) (hi : i < 7) :
    ∃ t, foldNext s = .next t ∧ AtBit j (i + 1) (foldBit sh b) f l t := by
  rw [foldNext, h.shift, h.bit, h.bitIdx, withReg_some, withReg_some, withReg_some, if_pos hi]
  exact ⟨_, rfl, ⟨h.phase, h.byteIdx, rfl, rfl, h.frame, h.line⟩, rfl, rfl, rfl⟩

theorem foldNext_nextByte (h : AtFold j 7 sh b f l s) (hj : j < 4) :
    ∃ t, foldNext s = .next t ∧ AtBit (j + 1) 0 0 (f.write j (foldBit sh b)) l t := by
  rw [foldNext, h.shift, h.bit, h.bitIdx, h.byteIdx, withReg_some, withReg_some, withReg_some, if_neg (by decide),
    withReg_some, if_neg (by bv_omega), if_pos hj, h.frame]
  exact ⟨_, rfl, ⟨h.phase, rfl, rfl, rfl, rfl, h.line⟩, rfl, rfl, rfl⟩

theorem foldNext_lastByte (h : AtFold 4 7 sh b f l s) :
    ∃ t, foldNext s = .next t ∧ AtValidate (f.write 4 (foldBit sh b)) l t := by
  rw [foldNext, h.shift, h.bit, h.bitIdx, h.byteIdx, withReg_some, withReg_some, withReg_some, if_neg (by decide),
    withReg_some, if_neg (by decide), if_neg (by decide), h.frame]
  exact ⟨_, rfl, rfl, rfl, rfl, h.line⟩

/-- The bits of a byte from bit `i` on: `SHIFT` folds them in turn, up to the last fold (rule R88). -/
theorem leads_of_bits (xs : List BitScript) (h : AtBit j i sh f ((xs.map BitScript.answers).flatten ++ l) s)
    (hx : xs.all BitScript.inBudget = true) (hlen : i.toNat + xs.length = 8)
    (hfold : ∀ u sh' b, AtFold j 7 sh' b f l u → foldBit sh' b = (xs.map BitScript.bit).foldl foldBit sh →
      ∃ t, foldNext u = .next t ∧ Leads t Q) : Leads s Q := by
  induction xs generalizing i sh s with
  | nil =>
    have := i.isLt
    simp at hlen
    omega
  | cons x xs ih =>
    obtain ⟨hx0, hxs⟩ : x.inBudget = true ∧ xs.all BitScript.inBudget = true := by simpa using hx
    rw [List.length_cons] at hlen
    rw [List.map_cons, List.flatten_cons, List.append_assoc] at h
    refine leads_of_bit h hx0 fun u hu => ?_
    by_cases hi : i < 7
    · obtain ⟨t, ht, hbit⟩ := foldNext_nextBit hu hi
      exact ⟨t, ht, ih hbit hxs (by bv_omega) hfold⟩
    · have hi7 : i = 7 := by bv_omega
      subst hi7
      have hnil : xs = [] := List.length_eq_zero_iff.mp (show xs.length = 0 by simp at hlen; omega)
      subst hnil
      exact hfold u sh x.bit hu rfl

/-- A byte read (rule R88): the fold of its eight bits is the byte. -/
theorem leads_of_byte {xs : List BitScript} {v : Byte} (hv : xs.map BitScript.bit = bitsOf v)
    (h : AtBit j 0 0 f ((xs.map BitScript.answers).flatten ++ l) s) (hx : xs.all BitScript.inBudget = true)
    (hfold : ∀ u sh' b, AtFold j 7 sh' b f l u → foldBit sh' b = v → ∃ t, foldNext u = .next t ∧ Leads t Q) : Leads s Q := by
  have hlen : xs.length = 8 := by rw [← List.length_map (f := BitScript.bit), hv, bitsOf_length]
  refine leads_of_bits xs h hx (by simp [hlen]) fun u sh' b hu hb => hfold u sh' b hu ?_
  rw [hb, hv, foldl_foldBit_bitsOf]

/-- A byte of the payload (rule R101). -/
theorem leads_of_dataByte {xs : List BitScript} {v : Byte} (hv : xs.map BitScript.bit = bitsOf v)
    (h : AtBit j 0 0 f ((xs.map BitScript.answers).flatten ++ l) s) (hx : xs.all BitScript.inBudget = true) (hj : j < 4)
    (hnext : ∀ t, AtBit (j + 1) 0 0 (f.write j v) l t → Leads t Q) : Leads s Q := by
  refine leads_of_byte hv h hx fun u sh' b hu hb => ?_
  obtain ⟨t, ht, hbit⟩ := foldNext_nextByte hu hj
  exact ⟨t, ht, hnext t (hb ▸ hbit)⟩

/-- The checksum (rule R101). -/
theorem leads_of_checksum {xs : List BitScript} {v : Byte} (hv : xs.map BitScript.bit = bitsOf v)
    (h : AtBit 4 0 0 f ((xs.map BitScript.answers).flatten ++ l) s) (hx : xs.all BitScript.inBudget = true) :
    Leads s (AtValidate (f.write 4 v) l) := by
  refine leads_of_byte hv h hx fun u sh' b hu hb => ?_
  obtain ⟨t, ht, hval⟩ := foldNext_lastByte hu
  exact ⟨t, ht, .here (hb ▸ hval)⟩

end Byte

/-! ### A frame -/

/-- The frame buffer that holds the payload `d` and the checksum `c`. -/
def Frame.holding (d : Payload) (c : Byte) : Frame :=
  { d0 := some d.b0, d1 := some d.b1, d2 := some d.b2, d3 := some d.b3, csum := some c }

/-- The bits of a frame that carries `d` and `c`, byte by byte (rule R43). -/
theorem FrameScript.bits_by_byte {f : FrameScript} {d : Payload} {c : Byte} (h : f.carries d c) :
    ∃ x0 x1 x2 x3 x4, f.bits = x0 ++ (x1 ++ (x2 ++ (x3 ++ x4))) ∧ x0.map BitScript.bit = bitsOf d.b0 ∧
      x1.map BitScript.bit = bitsOf d.b1 ∧ x2.map BitScript.bit = bitsOf d.b2 ∧ x3.map BitScript.bit = bitsOf d.b3 ∧
      x4.map BitScript.bit = bitsOf c := by
  rw [FrameScript.carries, List.append_assoc, List.append_assoc, List.append_assoc] at h
  obtain ⟨x0, y0, e0, h0, h⟩ := List.map_eq_append_iff.mp h
  obtain ⟨x1, y1, rfl, h1, h⟩ := List.map_eq_append_iff.mp h
  obtain ⟨x2, y2, rfl, h2, h⟩ := List.map_eq_append_iff.mp h
  obtain ⟨x3, x4, rfl, h3, h4⟩ := List.map_eq_append_iff.mp h
  exact ⟨x0, x1, x2, x3, x4, e0, h0, h1, h2, h3, h4⟩

/-- The five bytes of a frame fill the frame buffer in order (rules R43 and R91). -/
theorem leads_of_bytes {f : FrameScript} {d : Payload} {c : Byte} {l : List LineAnswer} {s : State} (hf : f.carries d c)
    (hx : f.bits.all BitScript.inBudget = true)
    (h : AtBit 0 0 0 Frame.empty ((f.bits.map BitScript.answers).flatten ++ l) s) :
    Leads s (AtValidate (Frame.holding d c) l) := by
  obtain ⟨x0, x1, x2, x3, x4, e, h0, h1, h2, h3, h4⟩ := FrameScript.bits_by_byte hf
  simp only [e, List.all_append, Bool.and_eq_true] at hx
  obtain ⟨b0, b1, b2, b3, b4⟩ := hx
  simp only [e, List.map_append, List.flatten_append, List.append_assoc] at h
  refine leads_of_dataByte h0 h b0 (by decide) fun t ht => ?_
  refine leads_of_dataByte h1 ht b1 (by decide) fun t ht => ?_
  refine leads_of_dataByte h2 ht b2 (by decide) fun t ht => ?_
  refine leads_of_dataByte h3 ht b3 (by decide) fun t ht => ?_
  exact leads_of_checksum h4 ht b4

/-- The handshake: one drive, the start delay and two waits, then the bytes (rule R91). -/
theorem leads_to_validate {f : FrameScript} {d : Payload} {c : Byte} {l : List LineAnswer} {s : State}
    (hin : f.inBudget = true) (hf : f.carries d c) (hl : s.line = f.answers ++ l) :
    Leads s.accept (AtValidate (Frame.holding d c) l) := by
  simp only [FrameScript.inBudget, Bool.and_eq_true, decide_eq_true_eq] at hin
  obtain ⟨⟨⟨⟨ha1, ha⟩, hb1⟩, hb⟩, hx⟩ := hin
  simp only [FrameScript.answers, List.append_assoc] at hl
  refine .step rfl fun tr => ⟨_, rfl, .step rfl fun tr' => ⟨_, rfl, ?_⟩⟩
  refine leads_of_wait (T := .high) rfl (fun u hu => blockStep_of_awaitAckHigh _ hu.phase hu.sub) rfl rfl ⟨ha1, ha⟩ hl
    fun u hu _ hl => ⟨_, rfl, ?_⟩
  refine leads_of_wait (T := .low) rfl (fun v hv => blockStep_of_awaitAckLow _ hv.phase (hv.sub.trans hu.sub)) rfl rfl
    ⟨hb1, hb⟩ hl fun v hv _ hl => ⟨_, rfl, ?_⟩
  exact leads_of_bytes hf hx ⟨⟨rfl, rfl, rfl, rfl, hv.frame.trans hu.frame, hl⟩, rfl, rfl, rfl⟩

theorem okEntry_of_validate {d : Payload} {c : Byte} {s : State} (hf : s.frame = Frame.holding d c) (hc : d.sum = c) :
    validate s = .next (s.okEntry d) := by
  rw [validate, hf]
  exact if_pos hc

/-- A read of a valid frame ends with its payload in `OUT_DATA` (rules R91 and R92). -/
theorem leads_to_payload {f : FrameScript} {d : Payload} {c : Byte} {l : List LineAnswer} {s : State}
    (hin : f.inBudget = true) (hf : f.carries d c) (hc : d.sum = c) (hl : s.line = f.answers ++ l) :
    Leads s.accept fun t => t.phase = .done ∧ t.outData = d := by
  refine (leads_to_validate hin hf hl).trans fun t ht => .step (busy_of_phase ht.phase) fun tr => ?_
  rw [blockStep_of_validate (s := t.resumed tr) _ ht.phase ht.sub, okEntry_of_validate (s := t.resumed tr) ht.frame hc]
  exact ⟨_, rfl, .here ⟨rfl, rfl⟩⟩

/-! ### The data word -/

/-- The first 32 bits of a frame are its payload's (rule R43). -/
theorem FrameScript.first_bits {f : FrameScript} {d : Payload} {c : Byte} (h : f.carries d c) :
    (f.bits.map BitScript.bit).take 32 = d.bits := by
  rw [h]
  exact List.take_left' (payload_bits_length d)

/-- A `VALIDATE` that ends in DONE leaves the payload of the frame buffer in `OUT_DATA` (rule R92). -/
theorem ValidateTo.frame_of_done {s t : State} (h : ValidateTo s t) (ht : t.phase = .done) :
    ∃ c, s.frame = Frame.holding t.outData c := by
  cases h with
  | accepts d c hf => exact ⟨c, hf⟩
  | rejects => simp at ht

/-- Settles O59: the payload's word is the number its bits spell; `VALIDATE` copies the frame buffer, and a read of a valid frame
ends with the payload that the line carried. -/
theorem dataWordIsTheFirst32Bits : Obligations.DataWordIsTheFirst32Bits := by
  refine ⟨fun s => ?_, fun s t h ht => ?_, fun s f d c rest hs hin hf hc hl => ?_⟩
  · obtain ⟨h0, h1, h2, h3⟩ := payload_word_bytes s.outData
    exact ⟨h0, h1, h2, h3, payload_word_eq_bitsValue s.outData⟩
  · obtain ⟨c, hf⟩ := (validate_next h).frame_of_done ht
    rw [hf]
    exact ⟨rfl, rfl, rfl, rfl⟩
  · obtain ⟨n, t, ht, hp, hd⟩ := leads_to_payload hin hf hc hl
    refine ⟨n, t.undisturbed [], run_readSchedule hs ht, busy_of_phase hp, ?_⟩
    rw [FrameScript.first_bits hf, ← hd]
    exact payload_word_eq_bitsValue t.outData

end Sys2Proof.Machine
end

section
/-! PROOF. The opcode map both ways: the words that decode are those that encode a well-formed operation, every other word is refused
under its own name, and the host port takes the words of its two commands only; and the status byte that the host reads. -/

namespace Sys2Proof

/-! ### The decoder undoes the encoder, and nothing else decodes -/

/-- No operand bit is dropped (rules R63 to R66). -/
theorem decode_encode {i : Instr} (h : i.wf = true) : decode (encode i) = .ok i := by
  cases i with
  | delay n =>
    have hn : n ≠ 0 := by simpa [Instr.wf] using h
    simpa [encode, decode] using decodeDelay_eq_ok.mpr ⟨hn, rfl⟩
  | readByte slot =>
    have hs : slot ≤ 4 := by simpa [Instr.wf] using h
    have h4 : (slot.setWidth 12).toNat ≤ 4 := by bv_omega
    have hw : (slot.setWidth 12).setWidth 3 = slot := by bv_omega
    simpa [encode, decode] using decodeReadByte_eq_ok.mpr ⟨h4, congrArg Instr.readByte hw⟩
  | driveHigh | readLevel | pollLow | pollHigh | sampleBit | validate | readFrame | abort => rfl

/-- An operation without operand that a word decodes to has that word. -/
theorem encode_of_noArg {w : Word} {op : BitVec 4} {i j : Instr} (ho : opOf w = op) (h : noArg i (argOf w) = .ok j)
    (hi : i.wf = true) (he : encode i = wordOf op 0) : j.wf = true ∧ encode j = w := by
  obtain ⟨ha, rfl⟩ := noArg_eq_ok.mp h
  exact ⟨hi, by rw [he, ← ho, ← ha, wordOf_fields]⟩

/-- A word that decodes is the word of a well-formed operation (rule R63). -/
theorem encode_of_decode {w : Word} {i : Instr} (h : decode w = .ok i) : i.wf = true ∧ encode i = w := by
  unfold decode at h
  split_ifs at h with h1 h2 h3 h4 h5 h6 h7 h8 h9
  · exact encode_of_noArg h1 h rfl rfl
  · exact encode_of_noArg h2 h rfl rfl
  · obtain ⟨ha, rfl⟩ := decodeDelay_eq_ok.mp h
    exact ⟨by simpa [Instr.wf] using ha, by rw [encode, ← h3, wordOf_fields]⟩
  · rcases decodePoll_eq_ok.mp h with ⟨ha, rfl⟩ | ⟨ha, rfl⟩
    · exact ⟨rfl, by rw [encode, ← h4, ← ha, wordOf_fields]⟩
    · exact ⟨rfl, by rw [encode, ← h4, ← ha, wordOf_fields]⟩
  · exact encode_of_noArg h5 h rfl rfl
  · obtain ⟨ha, rfl⟩ := decodeReadByte_eq_ok.mp h
    have hw : ((argOf w).setWidth 3).setWidth 12 = argOf w := by bv_omega
    exact ⟨by simp only [Instr.wf, decide_eq_true_eq]; bv_omega, by rw [encode, hw, ← h6, wordOf_fields]⟩
  · exact encode_of_noArg h7 h rfl rfl
  · exact encode_of_noArg h8 h rfl rfl
  · exact encode_of_noArg h9 h rfl rfl

theorem decode_eq_ok_iff {w : Word} {i : Instr} : decode w = .ok i ↔ i.wf = true ∧ w = encode i := by
  constructor
  · intro h
    obtain ⟨hi, he⟩ := encode_of_decode h
    exact ⟨hi, he.symm⟩
  · rintro ⟨hi, rfl⟩
    exact decode_encode hi

theorem eq_encode_delay_iff {w : Word} {n : BitVec 12} : w = encode (.delay n) ↔ w.toNat = 0x3000 + n.toNat := by
  rw [← BitVec.toNat_inj, encode, wordOf_toNat]
  rfl

theorem eq_encode_readByte_iff {w : Word} {slot : BitVec 3} : w = encode (.readByte slot) ↔ w.toNat = 0x6000 + slot.toNat := by
  have hs : (slot.setWidth 12).toNat = slot.toNat := by bv_omega
  rw [← BitVec.toNat_inj, encode, wordOf_toNat, hs]
  rfl

/-- Settles O1: the operand decoders take back every operand that the encoder writes. -/
theorem decodeOfEncodeIsTheInstruction : Obligations.DecodeOfEncodeIsTheInstruction := fun _ => decode_encode

/-- Settles O2: a word decodes to an operation exactly when it is that operation's word, and the rows list these words. -/
theorem opcodeMapIsExact : Obligations.OpcodeMapIsExact := by
  intro w i
  rw [decode_eq_ok_iff]
  cases i with
  | delay n => simp [Instr.wf, eq_encode_delay_iff]
  | readByte slot => simp [Instr.wf, eq_encode_readByte_iff]
  | driveHigh | readLevel | pollLow | pollHigh | sampleBit | validate | readFrame | abort => simp [Instr.wf, encode, wordOf]

/-! ### The reserved words -/

theorem decode_of_reserved_op {w : Word} (h : opOf w = 0x0 ∨ 0xA ≤ opOf w) : decode w = .error .opcode := by
  have h0 : (opOf w).toNat = 0 ∨ 10 ≤ (opOf w).toNat := by bv_omega
  have hne (n : Nat) (h1 : 1 ≤ n) (h9 : n ≤ 9) : opOf w ≠ BitVec.ofNat 4 n := by bv_omega
  simp [decode, hne]

theorem decode_of_arg_ne_zero {w : Word}
    (h : opOf w = 0x1 ∨ opOf w = 0x2 ∨ opOf w = 0x5 ∨ opOf w = 0x7 ∨ opOf w = 0x8 ∨ opOf w = 0x9) (ha : argOf w ≠ 0) :
    decode w = .error .argNotZero := by
  have hn (i : Instr) : noArg i (argOf w) = .error .argNotZero := if_neg ha
  rcases h with h | h | h | h | h | h <;> simp [decode, h, hn]

/-- `POLL` has one name for the arguments it refuses (rule R67). -/
theorem eq_pollArg_of_decodePoll {arg : BitVec 12} {r : Reserved} (h : decodePoll arg = .error r) : r = .pollArg := by
  unfold decodePoll at h
  split_ifs at h
  cases h
  rfl

/-- So has `READ_BYTE` (rule R67). -/
theorem eq_slot_of_decodeReadByte {arg : BitVec 12} {r : Reserved} (h : decodeReadByte arg = .error r) : r = .slot := by
  unfold decodeReadByte at h
  split_ifs at h
  cases h
  rfl

theorem decodePoll_of_two_le {arg : BitVec 12} (h : 2 ≤ arg.toNat) : decodePoll arg = .error .pollArg := by
  cases hd : decodePoll arg with
  | ok j =>
    rcases decodePoll_eq_ok.mp hd with ⟨rfl, -⟩ | ⟨rfl, -⟩
    · exact absurd h (by decide)
    · exact absurd h (by decide)
  | error r => rw [eq_pollArg_of_decodePoll hd]

theorem decodeReadByte_of_five_le {arg : BitVec 12} (h : 5 ≤ arg.toNat) : decodeReadByte arg = .error .slot := by
  cases hd : decodeReadByte arg with
  | ok j =>
    have h4 := (decodeReadByte_eq_ok.mp hd).1
    omega
  | error r => rw [eq_slot_of_decodeReadByte hd]

/-- The opcode of the words from `op << 12` to the next opcode's. -/
theorem opOf_eq_of_toNat {w : Word} {op : BitVec 4} (h : w.toNat / 4096 = op.toNat) : opOf w = op :=
  BitVec.eq_of_toNat_eq (by rw [opOf_toNat, h])

theorem decode_of_poll_range {w : Word} (hl : 0x4002 ≤ w) (hu : w ≤ 0x4FFF) : decode w = .error .pollArg := by
  have ho : opOf w = 0x4 := opOf_eq_of_toNat (by bv_omega)
  have ha : 2 ≤ (argOf w).toNat := by rw [argOf_toNat]; bv_omega
  simpa [decode, ho] using decodePoll_of_two_le ha

theorem decode_of_slot_range {w : Word} (hl : 0x6005 ≤ w) (hu : w ≤ 0x6FFF) : decode w = .error .slot := by
  have ho : opOf w = 0x6 := opOf_eq_of_toNat (by bv_omega)
  have ha : 5 ≤ (argOf w).toNat := by rw [argOf_toNat]; bv_omega
  simpa [decode, ho] using decodeReadByte_of_five_le ha

end Sys2Proof

namespace Sys2Proof.Machine

theorem harnessRun_of_error {w : Word} {r : Reserved} (h : decode w = .error r) (s : State) :
    harnessRun w s = .refused (.reservedWord r) := by
  rw [harnessRun, h]

theorem hostWrite_of_error {w : Word} {r : Reserved} (h : decode w = .error r) (s : State) : hostWrite w s = .next s := by
  rw [hostWrite, h]

/-- Settles O3: each class of reserved words by its opcode and argument; the harness and the host port look at the decoder's answer. -/
theorem reservedWordsAreRefusedByName : Obligations.ReservedWordsAreRefusedByName :=
  ⟨fun _ => decode_of_reserved_op, rfl, fun _ => decode_of_arg_ne_zero, fun _ => decode_of_poll_range,
    fun _ => decode_of_slot_range, fun _ _ s h => ⟨harnessRun_of_error h s, hostWrite_of_error h s⟩⟩

/-! ### The host port -/

/-- A host command's word runs the command (rule R68). -/
theorem hostWrite_of_hostCommand {w : Word} {i : Instr} (h : decode w = .ok i) (hi : i.isHostCommand = true) (s : State) :
    hostWrite w s = exec i s := by
  rw [hostWrite, h]
  exact if_pos hi

/-- The host's commands have two words (rule R68). -/
theorem eq_of_decode_hostCommand {w : Word} {i : Instr} (h : decode w = .ok i) (hi : i.isHostCommand = true) :
    w = 0x8000 ∨ w = 0x9000 := by
  obtain ⟨-, rfl⟩ := encode_of_decode h
  cases i with
  | readFrame => exact .inl rfl
  | abort => exact .inr rfl
  | driveHigh | readLevel | delay | pollLow | pollHigh | sampleBit | readByte | validate => cases hi

/-- Every other word changes nothing (rules R67 and R68). -/
theorem hostWrite_of_other {w : Word} (h8 : w ≠ 0x8000) (h9 : w ≠ 0x9000) (s : State) : hostWrite w s = .next s := by
  cases hd : decode w with
  | error r => exact hostWrite_of_error hd s
  | ok i =>
    have hi : ¬ i.isHostCommand = true := fun hi => (eq_of_decode_hostCommand hd hi).elim h8 h9
    rw [hostWrite, hd]
    exact if_neg hi

/-- A step takes the host's write off the inputs and runs it at the host port (rule R98). -/
theorem step_host {s : State} {w : Word} {rest : List Input} (hin : s.inputs = moveTurn (.host w) :: rest)
    (hl : s.lineConflict = false) : step s = hostWrite w { s with inputs := rest } := by
  have hn : s.nextInput = moveTurn (.host w) := by simp [State.nextInput, hin]
  have ht : s.takeInput = { s with inputs := rest } := by simp [State.takeInput, hin]
  have hl' : ({ s with inputs := rest } : State).lineConflict = false := hl
  simp [step, hn, ht, runInput, moveTurn, runMove, hl']

/-- Settles O7: the step runs the write, and the host port runs the command that the word decodes to. -/
theorem stepRunsTheHostCommand : Obligations.StepRunsTheHostCommand := by
  intro s w i rest hin hd hi hl
  rw [step_host hin hl, hostWrite_of_hostCommand hd hi]

/-- Settles O8: the step runs the write; two words decode to a host command, and every other word changes nothing. -/
theorem hostPortTakesTwoWordsOnly : Obligations.HostPortTakesTwoWordsOnly := by
  intro s w rest hin hl
  rw [step_host hin hl]
  split_ifs with h8 h9
  · exact hostWrite_of_hostCommand (i := .readFrame) (by rw [h8]; rfl) rfl _
  · exact hostWrite_of_hostCommand (i := .abort) (by rw [h9]; rfl) rfl _
  · exact hostWrite_of_other h8 h9 _

/-! ### The status byte -/

/-- The four fields of the status byte as one number (rule R69). -/
theorem statusByte_toNat (s : State) :
    s.statusByte.toNat = s.busy.toNat + 2 * s.resultValid.toNat + 4 * s.status.toNat := by
  have hpack : ∀ (st : BitVec 2) (v b : Bool),
      ((0 : BitVec 4) ++ st ++ BitVec.ofBool v ++ BitVec.ofBool b).toNat = b.toNat + 2 * v.toNat + 4 * st.toNat := by decide
  exact hpack s.status s.resultValid s.busy

theorem statusByte_of_fields {s : State} {b v : Bool} {st : BitVec 2} (hb : s.busy = b) (hv : s.resultValid = v)
    (hs : s.status = st) : s.statusByte = 0#4 ++ st ++ BitVec.ofBool v ++ BitVec.ofBool b := by
  rw [State.statusByte, hb, hv, hs]
  rfl

/-- While the result registers are clear, the status byte is `BUSY` (rules R24 and R69). -/
theorem statusByte_of_resultClear {s : State} {b : Bool} (h : s.resultClear) (hb : s.busy = b) :
    s.statusByte = BitVec.ofNat 8 b.toNat := by
  obtain ⟨hv, hs, -, -⟩ := h
  rw [statusByte_of_fields hb hv hs]
  cases b <;> rfl

/-- A failure's status is one of three (rule R69). -/
theorem statusByte_of_failed {s : State} (hb : s.busy = false) (hv : s.resultValid = true) (hs : s.status ≠ 0) :
    s.statusByte = if s.status = 1 then 0x06 else if s.status = 2 then 0x0A else 0x0E := by
  split_ifs with h1 h2
  · exact statusByte_of_fields hb hv h1
  · exact statusByte_of_fields hb hv h2
  · exact statusByte_of_fields hb hv (show s.status = 3 by bv_omega)

/-- Settles O58: the byte packs four fields, and the invariant gives the result registers at each phase. -/
theorem statusByteOfEveryState : Obligations.StatusByteOfEveryState := by
  refine ⟨statusByte_toNat, fun s hs => ?_⟩
  have hr := hs.2.2
  unfold State.resultInv at hr
  cases hp : s.phase with
  | done =>
    rw [hp] at hr
    obtain ⟨hv, hst, -⟩ := hr
    exact statusByte_of_fields (busy_of_phase hp) hv hst
  | failed =>
    rw [hp] at hr
    obtain ⟨hv, hst, -, -⟩ := hr
    exact statusByte_of_failed (busy_of_phase hp) hv hst
  | idle | startPulse | awaitAckHigh | awaitAckLow | readByte | validate =>
    rw [hp] at hr
    exact statusByte_of_resultClear hr (busy_of_phase hp)

end Sys2Proof.Machine
end

section
/-! PROOF. A line of assembler text: its words are its tokens, the text of an operation is its mnemonic and its operand, and these
tokens read back as the operation. -/

namespace Sys2Proof.Machine

/-! ### The words of a line -/

/-- The characters make one token, with no comment in it (rule R72). -/
def IsWord (w : List Char) : Prop := w ≠ [] ∧ w.all (fun c => !isBlank c && c != ';') = true

theorem IsWord.not_blank {w : List Char} (h : IsWord w) : w.all (fun c => !isBlank c) = true := by
  simp only [IsWord, List.all_eq_true, Bool.and_eq_true] at h ⊢
  exact fun c hc => (h.2 c hc).1

theorem IsWord.ne_semicolon {w : List Char} (h : IsWord w) {c : Char} (hc : c ∈ w) : c ≠ ';' := by
  simp only [IsWord, List.all_eq_true, Bool.and_eq_true, bne_iff_ne] at h
  exact (h.2 c hc).2

/-- Blanks hold no comment. -/
theorem ne_semicolon_of_all_isBlank {bs : List Char} (h : bs.all isBlank = true) {c : Char} (hc : c ∈ bs) : c ≠ ';' :=
  ne_semicolon_of_isBlank (List.all_eq_true.mp h c hc)

/-- A word, and the words after it with a gap before each. -/
def spaced (gap w : List Char) (ws : List (List Char)) : List Char := w ++ ws.flatMap (gap ++ ·)

/-- The tokens of words with gaps between them are the words (rule R72). -/
theorem tokensFrom_spaced {gap w post : List Char} {ws : List (List Char)} (hg : gap.all isBlank = true) (hne : gap ≠ [])
    (hpost : post.all isBlank = true) (hws : ∀ x ∈ w :: ws, IsWord x) :
    tokensFrom [] (spaced gap w ws ++ post) = w :: ws := by
  induction ws generalizing w with
  | nil =>
    have hw := hws w (by simp)
    simp only [spaced, List.flatMap_nil, List.append_nil]
    rw [tokensFrom_word hw.not_blank, tokensFrom_end (by simpa using hw.1) hpost]
    simp
  | cons x xs ih =>
    have hw := hws w (by simp)
    have hx : tokensFrom [] (spaced gap x xs ++ post) = x :: xs := ih fun y hy => hws y (by simp_all)
    have hsplit : spaced gap w (x :: xs) ++ post = w ++ (gap ++ (spaced gap x xs ++ post)) := by simp [spaced]
    rw [hsplit, tokensFrom_word hw.not_blank, tokensFrom_gap (by simpa using hw.1) hne hg, hx]
    simp

/-- Words with gaps between them hold no comment. -/
theorem ne_semicolon_of_mem_spaced {gap w : List Char} {ws : List (List Char)} (hg : gap.all isBlank = true)
    (hws : ∀ x ∈ w :: ws, IsWord x) {c : Char} (hc : c ∈ spaced gap w ws) : c ≠ ';' := by
  simp only [spaced, List.mem_append, List.mem_flatMap] at hc
  rcases hc with hc | ⟨x, hx, hc | hc⟩
  · exact (hws w (by simp)).ne_semicolon hc
  · exact ne_semicolon_of_all_isBlank hg hc
  · exact (hws x (by simp [hx])).ne_semicolon hc

/-- A line of words is assembled from them, with a comment or without. -/
theorem assembleLine_spaced {pre gap w post : List Char} {ws : List (List Char)} (comment : List Char)
    (hpre : pre.all isBlank = true) (hg : gap.all isBlank = true) (hne : gap ≠ []) (hpost : post.all isBlank = true)
    (hws : ∀ x ∈ w :: ws, IsWord x) :
    assembleLine (pre ++ spaced gap w ws ++ post) = assembleTokens (w :: ws) ∧
    assembleLine (pre ++ spaced gap w ws ++ post ++ ';' :: comment) = assembleTokens (w :: ws) := by
  have hc : ∀ c ∈ pre ++ spaced gap w ws ++ post, c ≠ ';' := by
    simp only [List.mem_append]
    rintro c ((hc | hc) | hc)
    · exact ne_semicolon_of_all_isBlank hpre hc
    · exact ne_semicolon_of_mem_spaced hg hws hc
    · exact ne_semicolon_of_all_isBlank hpost hc
  have ht : tokensFrom [] (pre ++ spaced gap w ws ++ post) = w :: ws := by
    rw [List.append_assoc, tokensFrom_blanks hpre, tokensFrom_spaced hg hne hpost hws]
  rw [assembleLine, assembleLine, stripComment_append hc, stripComment_of_forall_ne hc, ht]
  exact ⟨rfl, rfl⟩

/-- A line of blanks holds no operation, with a comment or without. -/
theorem assembleLine_blanks {pre : List Char} (comment : List Char) (hpre : pre.all isBlank = true) :
    assembleLine pre = .ok none ∧ assembleLine (pre ++ ';' :: comment) = .ok none := by
  have hc : ∀ c ∈ pre, c ≠ ';' := fun _ => ne_semicolon_of_all_isBlank hpre
  rw [assembleLine, assembleLine, stripComment_append hc, stripComment_of_forall_ne hc, tokensFrom_nil_of_blanks hpre]
  exact ⟨rfl, rfl⟩

/-! ### The text of an operation -/

/-- The mnemonic: the text of the operation with nothing written for its operand. -/
def mnemonicText (i : Instr) : List Char := asmTextWith [] (fun _ => []) i

/-- The operand's text, if the operation has one. -/
def operandTexts (num : BitVec 12 → List Char) : Instr → List (List Char)
  | .delay n => [num n]
  | .readByte slot => [num (slot.setWidth 12)]
  | _ => []

theorem asmTextWith_eq_spaced (gap : List Char) (num : BitVec 12 → List Char) (i : Instr) :
    asmTextWith gap num i = spaced gap (mnemonicText i) (operandTexts num i) := by
  cases i with
  | delay n => simp [asmTextWith, spaced, mnemonicText, operandTexts]
  | readByte slot => simp [asmTextWith, spaced, mnemonicText, operandTexts]
  | driveHigh | readLevel | pollLow | pollHigh | sampleBit | validate | readFrame | abort => rfl

theorem mnemonicText_isWord (i : Instr) : IsWord (mnemonicText i) := by
  cases i <;> exact ⟨by simp [mnemonicText, asmTextWith, delayMnemonic, readByteMnemonic], rfl⟩

/-- A writer of operands whose texts are words that read back as the operand. -/
def WritesNumerals (num : BitVec 12 → List Char) : Prop := ∀ v, numeral (num v) = some v.toNat ∧ IsWord (num v)

theorem ne_nil_of_numeral {cs : List Char} {n : Nat} (h : numeral cs = some n) : cs ≠ [] := by
  rintro rfl
  cases h

/-- Both forms of rule R72 do so. -/
theorem writesNumerals_of_form {num : BitVec 12 → List Char} (h : num = operandText ∨ num = decimalText) :
    WritesNumerals num := by
  intro v
  rcases h with rfl | rfl
  · exact ⟨numeral_operandText v, ne_nil_of_numeral (numeral_operandText v), operandText_chars v⟩
  · exact ⟨numeral_decimalText v, ne_nil_of_numeral (numeral_decimalText v), decimalText_chars v⟩

theorem asmWords_isWord {num : BitVec 12 → List Char} (hnum : WritesNumerals num) (i : Instr) :
    ∀ x ∈ mnemonicText i :: operandTexts num i, IsWord x := by
  intro x hx
  rcases List.mem_cons.mp hx with rfl | hx
  · exact mnemonicText_isWord i
  · unfold operandTexts at hx
    split at hx
    · rw [List.mem_singleton.mp hx]
      exact (hnum _).2
    · rw [List.mem_singleton.mp hx]
      exact (hnum _).2
    · cases hx

/-! ### Reading it back -/

/-- A mnemonic and a numeral are assembled as the mnemonic and the number (rule R72). -/
theorem assembleTokens_of_numeral {m x : List Char} {n : Nat} {i : Instr} (hx : numeral x = some n)
    (h : assembleOperand m n = .ok i) : assembleTokens [m, x] = .ok (some i) := by
  rw [assembleTokens, hx]
  simp only [h]
  rfl

theorem assembleOperand_delay {n : BitVec 12} (h : n ≠ 0) : assembleOperand delayMnemonic n.toNat = .ok (.delay n) := by
  have hn : 1 ≤ n.toNat ∧ n.toNat ≤ 4095 := by bv_omega
  rw [assembleOperand, if_pos rfl, if_pos hn, BitVec.ofNat_toNat, BitVec.setWidth_eq]

theorem assembleOperand_readByte {slot : BitVec 3} (h : slot ≤ 4) :
    assembleOperand readByteMnemonic (slot.setWidth 12).toNat = .ok (.readByte slot) := by
  have hs : (slot.setWidth 12).toNat = slot.toNat := by bv_omega
  have h4 : slot.toNat ≤ 4 := by bv_omega
  rw [hs, assembleOperand, if_neg (by decide), if_pos rfl, if_pos h4, BitVec.ofNat_toNat, BitVec.setWidth_eq]

/-- The words of a well-formed operation are assembled as that operation (rule R72). -/
theorem assembleTokens_words {num : BitVec 12 → List Char} (hnum : WritesNumerals num) {i : Instr} (hi : i.wf = true) :
    assembleTokens (mnemonicText i :: operandTexts num i) = .ok (some i) := by
  cases i with
  | delay n => exact assembleTokens_of_numeral (hnum n).1 (assembleOperand_delay (by simpa [Instr.wf] using hi))
  | readByte slot => exact assembleTokens_of_numeral (hnum _).1 (assembleOperand_readByte (by simpa [Instr.wf] using hi))
  | driveHigh | readLevel | pollLow | pollHigh | sampleBit | validate | readFrame | abort => rfl

/-- Settles O5: the text of an operation is its mnemonic and its operand, which are the line's tokens and read back. -/
theorem assembledTextIsTheInstruction : Obligations.AssembledTextIsTheInstruction := by
  refine ⟨fun i num pre gap post comment hi hnum hpre hg hne hpost => ?_, fun pre comment => assembleLine_blanks comment⟩
  have hn := writesNumerals_of_form hnum
  rw [asmTextWith_eq_spaced, ← assembleTokens_words hn hi]
  exact assembleLine_spaced comment hpre hg hne hpost (asmWords_isWord hn i)

end Sys2Proof.Machine
end

section
/-! PROOF. A whole read is its expansion: each operation of the expansion is one run of the sequential read, a failed run turns the
rest away, and neither looks at `BYTE_IDX`. -/

namespace Sys2Proof.Machine

/-! ### A run and what follows it -/

/-- What follows a run answers, unless the run has failed: then the state of the failure (rule R112). -/
def Run.thenOut {α : Type} (r : Run α) (k : α → State → Out) : Out :=
  match r with
  | .ok v t => k v t
  | .failed t => .next t

@[simp] theorem thenOut_ok {α : Type} (v : α) (t : State) (k : α → State → Out) : (Run.ok v t).thenOut k = k v t := rfl

@[simp] theorem thenOut_failed {α : Type} (t : State) (k : α → State → Out) : (Run.failed t).thenOut k = .next t := rfl

theorem andThen_thenOut {α β : Type} (r : Run α) (f : α → State → Run β) (k : β → State → Out) :
    (r.andThen f).thenOut k = r.thenOut fun v t => (f v t).thenOut k := by
  cases r with
  | ok v t => rfl
  | failed t => rfl

theorem readWhole_eq_thenOut (P : Config.Params) (s : State) :
    readWhole P s = (readSteps P s.accept).thenOut fun _ => validate := by
  rw [readWhole]
  cases readSteps P s.accept with
  | ok v t => rfl
  | failed t => rfl

/-! ### How a run leaves the block -/

/-- A run leaves the block enabled, or has failed and left it not busy (rules R23 and R113). -/
def Run.Settles {α : Type} : Run α → Prop
  | .ok _ t => t.blockEnabled = true
  | .failed t => t.busy = false

theorem SubStep.settles {α : Type} {s : State} {r : Run α} (h : SubStep s r) (hs : s.blockEnabled = true) : r.Settles := by
  obtain ⟨hk, he⟩ := h
  cases r with
  | ok v t =>
    have hg : GoesOn s t := he
    have hb : t.busy = true := (busy_of_phase hg.phase).trans (blockEnabled_iff.mp hs).1
    exact blockEnabled_iff.mpr ⟨hb, hk.susp⟩
  | failed t =>
    have hf : HasFailed t := he
    exact busy_of_phase hf.phase

theorem Run.Settles.andThen {α β : Type} {r : Run α} {f : α → State → Run β} (h : r.Settles)
    (hf : ∀ v t, t.blockEnabled = true → (f v t).Settles) : (r.andThen f).Settles := by
  cases r with
  | ok v t => exact hf v t h
  | failed t => exact h

theorem poll_settles (P : Config.Params) (T : Level) {s : State} (hs : s.blockEnabled = true) : (poll P T s).Settles :=
  (poll_subStep P T s (blockEnabled_iff.mp hs).2).settles hs

theorem readBits_settles (P : Config.Params) (left : Nat) (i : BitVec 3) (sh : Byte) {s : State} (hs : s.blockEnabled = true) :
    (readBits P left i sh s).Settles := by
  induction left generalizing i sh s with
  | zero => exact hs
  | succ left ih =>
    have hbit := (sampleBit_subStep P { s with bitIdx := some i } (blockEnabled_iff.mp hs).2).settles hs
    exact hbit.andThen fun b t ht => ih (i + 1) (foldBit sh b) (s := { t with shift := some (foldBit sh b) }) ht

theorem readByte_settles (P : Config.Params) (slot : BitVec 3) {s : State} (hs : s.blockEnabled = true) :
    (readByte P slot s).Settles :=
  (readBits_settles P Config.bitsPerByte 0 0 (s := { s with shift := some 0 }) hs).andThen fun _ _ ht => ht

/-! ### Operations one after the other -/

theorem execAll_cons_of_next {i : Instr} {is : List Instr} {s t : State} (h : exec i s = .next t) :
    execAll (i :: is) s = execAll is t := by
  rw [execAll, h]

/-- An internal operation given while `BUSY = 0` is turned away (rules R68 and R98). -/
theorem exec_of_not_busy {i : Instr} (hw : i.wf = true) (hi : i.isHostCommand = false) {s : State} (hb : s.busy = false) :
    exec i s = .next s := by
  have hoff : ¬ s.blockEnabled = true := by simp [blockEnabled_iff, hb]
  cases i with
  | delay n =>
    have hn : n ≠ 0 := by simpa [Instr.wf] using hw
    exact (if_neg hn).trans (if_neg hoff)
  | readByte slot =>
    have hs : ¬ 4 < slot := by simpa [Instr.wf] using hw
    exact (if_neg hs).trans (if_neg hoff)
  | driveHigh | readLevel | pollLow | pollHigh | sampleBit | validate => exact if_neg hoff
  | readFrame | abort => cases hi

/-- So are any number of them. -/
theorem execAll_of_not_busy {is : List Instr} (h : ∀ i ∈ is, i.wf = true ∧ i.isHostCommand = false) {s : State}
    (hb : s.busy = false) : execAll is s = .next s := by
  induction is with
  | nil => rfl
  | cons i is ih =>
    obtain ⟨hw, hi⟩ := h i (by simp)
    rw [execAll_cons_of_next (exec_of_not_busy hw hi hb), ih fun j hj => h j (by simp [hj])]

/-- An operation that is a run, and internal operations after it: they follow the run, or are turned away (rule R112). -/
theorem execAll_cons_of_run {α : Type} {i : Instr} {is : List Instr} {s : State} {r : Run α} (he : exec i s = .next r.state)
    (hr : r.Settles) (h : ∀ j ∈ is, j.wf = true ∧ j.isHostCommand = false) :
    execAll (i :: is) s = r.thenOut fun _ => execAll is := by
  rw [execAll_cons_of_next he]
  cases r with
  | ok v t => rfl
  | failed t => exact execAll_of_not_busy h hr

theorem execAll_singleton (i : Instr) (s : State) : execAll [i] s = exec i s := by
  rw [execAll]
  cases exec i s <;> rfl

theorem exec_driveHigh {s : State} (hs : s.blockEnabled = true) : exec .driveHigh s = .next s.lineDriveHigh := if_pos hs

theorem exec_delay {n : BitVec 12} (hn : n ≠ 0) {s : State} (hs : s.blockEnabled = true) :
    exec (.delay n) s = .next (s.delay (delayCount n)) := by
  rw [exec, execDelay, if_neg hn, whenEnabled_of_enabled hs]

theorem exec_pollOf (T : Level) {s : State} (hs : s.blockEnabled = true) :
    exec (pollOf T) s = .next (poll Config.hw T s).state := by
  cases T with
  | high => exact if_pos hs
  | low => exact if_pos hs

theorem exec_readByte {slot : BitVec 3} (h4 : slot ≤ 4) {s : State} (hs : s.blockEnabled = true) :
    exec (.readByte slot) s = .next (readByte Config.hw slot s).state :=
  (if_neg (by simpa using h4)).trans (if_pos hs)

/-! ### `BYTE_IDX` is not read -/

/-- The state with `BYTE_IDX` left out. -/
def State.noByteIdx (s : State) : State := { s with byteIdx := none }

/-- The run with `BYTE_IDX` left out of its last state. -/
def Run.noByteIdx {α : Type} : Run α → Run α
  | .ok v t => .ok v t.noByteIdx
  | .failed t => .failed t.noByteIdx

theorem andThen_noByteIdx {α β : Type} (r : Run α) {f : α → State → Run β}
    (hf : ∀ v t, f v t.noByteIdx = (f v t).noByteIdx) : r.noByteIdx.andThen f = (r.andThen f).noByteIdx := by
  cases r with
  | ok v t => exact hf v t
  | failed t => rfl

theorem sampleLevel_noByteIdx (s : State) : sampleLevel s.noByteIdx = (sampleLevel s).noByteIdx := by
  have ha : s.noByteIdx.lineAnswer = s.lineAnswer := rfl
  rw [sampleLevel, sampleLevel, ha]
  cases s.lineAnswer with
  | level l => rfl
  | err c => rfl

theorem pollLoop_noByteIdx (P : Config.Params) (T : Level) (left : Nat) (cnt : BitVec 7) (s : State) :
    pollLoop P T left cnt s.noByteIdx = (pollLoop P T left cnt s).noByteIdx := by
  induction left generalizing cnt s with
  | zero => rfl
  | succ left ih =>
    have ha : s.noByteIdx.lineAnswer = s.lineAnswer := rfl
    have hd : (s.noByteIdx.check cnt).owedDelay = (s.check cnt).owedDelay.noByteIdx := rfl
    rw [pollLoop, pollLoop, ha, hd, ih]
    cases s.lineAnswer with
    | err c => rfl
    | level l =>
      simp only [apply_ite Run.noByteIdx]
      cases P.delayAfterLast <;> rfl

theorem poll_noByteIdx (P : Config.Params) (T : Level) (s : State) : poll P T s.noByteIdx = (poll P T s).noByteIdx :=
  pollLoop_noByteIdx P T P.budget 0 s.waitReset

theorem sampleBit_noByteIdx (P : Config.Params) (s : State) : sampleBit P s.noByteIdx = (sampleBit P s).noByteIdx := by
  rw [sampleBit, poll_noByteIdx]
  refine andThen_noByteIdx _ fun _ t => ?_
  rw [show t.noByteIdx.delay Config.sampleDelay = (t.delay Config.sampleDelay).noByteIdx from rfl, sampleLevel_noByteIdx]
  refine andThen_noByteIdx _ fun b u => ?_
  rw [poll_noByteIdx]
  exact andThen_noByteIdx _ fun _ _ => rfl

theorem readBits_noByteIdx (P : Config.Params) (left : Nat) (i : BitVec 3) (sh : Byte) (s : State) :
    readBits P left i sh s.noByteIdx = (readBits P left i sh s).noByteIdx := by
  induction left generalizing i sh s with
  | zero => rfl
  | succ left ih =>
    have hbit := sampleBit_noByteIdx P { s with bitIdx := some i }
    exact (congrArg (Run.andThen · _) hbit).trans (andThen_noByteIdx _ fun b t =>
      ih (i + 1) (foldBit sh b) { t with shift := some (foldBit sh b) })

theorem readByte_noByteIdx (P : Config.Params) (slot : BitVec 3) (s : State) :
    readByte P slot s.noByteIdx = (readByte P slot s).noByteIdx := by
  have hbits := readBits_noByteIdx P Config.bitsPerByte 0 0 { s with shift := some 0 }
  exact (congrArg (Run.andThen · _) hbits).trans (andThen_noByteIdx _ fun _ _ => rfl)

theorem withReg_withoutByteIdx {α : Type} (r : RegName) (v : Option α) {k k' : α → Out}
    (hk : ∀ x, k' x = withoutByteIdx (k x)) : withReg r v k' = withoutByteIdx (withReg r v k) := by
  cases v with
  | some x => exact hk x
  | none => rfl

theorem validate_noByteIdx (s : State) : validate s.noByteIdx = withoutByteIdx (validate s) := by
  refine withReg_withoutByteIdx _ _ fun d0 => withReg_withoutByteIdx _ _ fun d1 => withReg_withoutByteIdx _ _ fun d2 =>
    withReg_withoutByteIdx _ _ fun d3 => withReg_withoutByteIdx _ _ fun c => ?_
  rw [apply_ite withoutByteIdx]
  rfl

/-- Runs that agree but for `BYTE_IDX`, followed by what agrees but for it, agree but for it. -/
theorem withoutByteIdx_thenOut {α : Type} {r r' : Run α} {k k' : α → State → Out} (h : r.noByteIdx = r'.noByteIdx)
    (hr : r.Settles)
    (hk : ∀ v t t', t.blockEnabled = true → t.noByteIdx = t'.noByteIdx → withoutByteIdx (k v t) = withoutByteIdx (k' v t')) :
    withoutByteIdx (r.thenOut k) = withoutByteIdx (r'.thenOut k') := by
  cases r with
  | ok v t =>
    cases r' with
    | ok v' t' =>
      obtain ⟨rfl, ht⟩ := Run.ok.inj h
      exact hk v t t' hr ht
    | failed t' => cases h
  | failed t =>
    cases r' with
    | ok v' t' => cases h
    | failed t' => exact congrArg Host.Outcome.next (Run.failed.inj h)

/-! ### The expansion -/

/-- The end of the expansion: the bytes from `j`, with `left` to read, and the validation (rule R73). -/
def bytesThenValidate : Nat → BitVec 3 → List Instr
  | 0, _ => [.validate]
  | left + 1, j => .readByte j :: bytesThenValidate left (j + 1)

theorem readFrameSequence_eq :
    readFrameSequence =
      .driveHigh :: .delay 48 :: pollOf .high :: pollOf .low :: bytesThenValidate Config.frameBytes 0 := rfl

theorem bytesThenValidate_internal {left : Nat} {j : BitVec 3} (h : j.toNat + left ≤ 5) :
    ∀ i ∈ bytesThenValidate left j, i.wf = true ∧ i.isHostCommand = false := by
  induction left generalizing j with
  | zero => simp [bytesThenValidate, Instr.wf, Instr.isHostCommand]
  | succ left ih =>
    intro i hi
    rcases List.mem_cons.mp hi with rfl | hi
    · exact ⟨by simp only [Instr.wf, decide_eq_true_eq]; bv_omega, rfl⟩
    · exact ih (by bv_omega) i hi

/-- `READ_BYTE` of the bytes in turn and `VALIDATE` are the bytes of the sequential read and its validation, which write `BYTE_IDX`
besides (rules R73 and R91). -/
theorem execAll_bytesThenValidate {left : Nat} {j : BitVec 3} (h : j.toNat + left ≤ 5) {s t : State}
    (hs : s.blockEnabled = true) (hst : s.noByteIdx = t.noByteIdx) :
    withoutByteIdx (execAll (bytesThenValidate left j) s) =
      withoutByteIdx ((readBytes Config.hw left j t).thenOut fun _ => validate) := by
  induction left generalizing j s t with
  | zero =>
    have hval : exec .validate s = validate s := whenEnabled_of_enabled hs validate
    rw [bytesThenValidate, execAll_singleton, hval, readBytes, thenOut_ok, ← validate_noByteIdx, hst, validate_noByteIdx]
  | succ left ih =>
    have hbyte := exec_readByte (slot := j) (by bv_omega) hs
    have hagree : (readByte Config.hw j s).noByteIdx = (readByte Config.hw j { t with byteIdx := some j }).noByteIdx := by
      rw [← readByte_noByteIdx, ← readByte_noByteIdx, hst]
      rfl
    have hrest : (j + 1).toNat + left ≤ 5 := by bv_omega
    have hset := readByte_settles Config.hw j hs
    rw [bytesThenValidate, execAll_cons_of_run hbyte hset (bytesThenValidate_internal hrest), readBytes, andThen_thenOut]
    exact withoutByteIdx_thenOut hagree hset fun _ u u' hu huu => ih hrest hu huu

/-- Settles O57: drive and delay do not fail; after them each operation is the run of the sequential read at its place, up to
`BYTE_IDX`. -/
theorem readFrameIsItsExpansion : Obligations.ReadFrameIsItsExpansion := by
  intro s hb hu
  have he : s.accept.blockEnabled = true := blockEnabled_iff.mpr ⟨rfl, hu⟩
  have hdrive : exec .driveHigh s.accept = .next s.accept.lineDriveHigh := exec_driveHigh he
  have hdelay : exec (.delay 48) s.accept.lineDriveHigh = .next (s.accept.lineDriveHigh.delay Config.startDelay) :=
    exec_delay (by decide) he
  have hrise : (s.accept.lineDriveHigh.delay Config.startDelay).blockEnabled = true := rfl
  have hbytes : ∀ i ∈ bytesThenValidate Config.frameBytes 0, i.wf = true ∧ i.isHostCommand = false :=
    bytesThenValidate_internal (by decide)
  have hrest : ∀ i ∈ pollOf .low :: bytesThenValidate Config.frameBytes 0, i.wf = true ∧ i.isHostCommand = false :=
    List.forall_mem_cons.mpr ⟨⟨rfl, rfl⟩, hbytes⟩
  rw [readFrameSequence_eq, execAll_cons_of_next hdrive, execAll_cons_of_next hdelay,
    execAll_cons_of_run (exec_pollOf .high hrise) (poll_settles Config.hw .high hrise) hrest, readWhole_eq_thenOut, readSteps,
    andThen_thenOut]
  refine withoutByteIdx_thenOut rfl (poll_settles Config.hw .high hrise) fun _ t t' ht htt => ?_
  have hagree : (poll Config.hw .low t).noByteIdx = (poll Config.hw .low t').noByteIdx := by
    rw [← poll_noByteIdx, htt, poll_noByteIdx]
  have hset := poll_settles Config.hw .low ht
  rw [execAll_cons_of_run (exec_pollOf .low ht) hset hbytes, andThen_thenOut]
  exact withoutByteIdx_thenOut hagree hset fun _ u u' hu huu => execAll_bytesThenValidate (by decide) hu huu

end Sys2Proof.Machine
end

section
/-! PROOF. The primitives: what each port operation writes, and from it what `DRIVE_HIGH`, `READ_LEVEL` and `DELAY n` answer while the
block is enabled. -/

namespace Sys2Proof.Machine

/-! ### The port operations, field by field -/

theorem lineDriveHigh_eq (s : State) :
    s.lineDriveHigh = { s with
      drive := s.drive.tail, draws := if s.drive = [] then s.draws + 1 else s.draws,
      trace := s.trace ++ [.drive .high s.driveAnswer] } := by
  simp only [State.lineDriveHigh, List.isEmpty_iff]

/-- A drive whose answer is listed. -/
theorem lineDriveHigh_of_cons {s : State} {a : DriveAnswer} {rest : List DriveAnswer} (h : s.drive = a :: rest) :
    s.lineDriveHigh = { s with drive := rest, trace := s.trace ++ [.drive .high a] } := by
  simp [lineDriveHigh_eq, State.driveAnswer, h]

theorem lineRead_of_answer {s : State} {a : LineAnswer} (h : s.lineAnswer = a) :
    s.lineRead = { s with
      line := s.line.tail, draws := if s.line = [] then s.draws + 1 else s.draws, trace := s.trace ++ [.read a] } := by
  simp only [State.lineRead, List.isEmpty_iff, h]

/-- A whole delay leaves two events, and `SUSP` at 0 (rules R40 and R76). -/
theorem delay_eq (n : Nat) (s : State) :
    s.delay n = { s with susp := false, trace := s.trace ++ [.delay n, .delayDone] } := by
  simp [State.delay, State.issueDelay, State.delayDone]

/-- A delay's operand is its count (rule R64). -/
theorem delayCount_eq_toNat (n : BitVec 12) : delayCount n = n.toNat :=
  BitVec.toNat_setWidth_of_le (by decide)

/-! ### `DRIVE_HIGH` and `READ_LEVEL` -/

/-- A listed answer to the drive goes into the trace and nowhere else (rules R37 and R74). -/
theorem exec_driveHigh_of_cons {s : State} {a : DriveAnswer} {rest : List DriveAnswer} (hs : s.blockEnabled = true)
    (h : s.drive = a :: rest) :
    exec .driveHigh s = .next { s with drive := rest, trace := s.trace ++ [.drive .high a] } := by
  rw [exec_driveHigh hs, lineDriveHigh_of_cons h]

theorem exec_readLevel {s : State} (hs : s.blockEnabled = true) : exec .readLevel s = .next (sampleLevel s).state := if_pos hs

/-- A level read goes into `BIT` (rule R75). -/
theorem exec_readLevel_of_level {s : State} {l : Level} (hs : s.blockEnabled = true) (h : s.lineAnswer = .level l) :
    exec .readLevel s = .next { s.lineRead with bit := some l.bit } := by
  simp [exec_readLevel hs, sampleLevel, h]

/-- A line error enters the failure from the state after the read, whose `BIT` is the old one (rules R75 and R113). -/
theorem exec_readLevel_of_err {s : State} {c : LineCause} (hs : s.blockEnabled = true) (h : s.lineAnswer = .err c) :
    exec .readLevel s = .next (s.lineRead.failEntry (.lineError c)) := by
  simp [exec_readLevel hs, sampleLevel, h]

/-! ### The obligations -/

/-- Settles O14: the drive writes only its event, and two listed answers leave states that differ in that event. -/
theorem driveHighAsksTheLineOnce : Obligations.DriveHighAsksTheLineOnce := by
  intro s hb hu
  have he : s.blockEnabled = true := blockEnabled_iff.mpr ⟨hb, hu⟩
  refine ⟨?_, fun a b rest => ?_⟩
  · rw [exec_driveHigh he, lineDriveHigh_eq]
  · exact ⟨_, _, exec_driveHigh_of_cons he rfl, exec_driveHigh_of_cons he rfl, rfl, rfl, rfl⟩

/-- Settles O15, by the line's answer: a level goes into `BIT`, an error into the failure entry. -/
theorem readLevelSamplesOnce : Obligations.ReadLevelSamplesOnce := by
  refine ⟨rfl, fun s hb hu => ?_⟩
  have he : s.blockEnabled = true := blockEnabled_iff.mpr ⟨hb, hu⟩
  refine ⟨fun hhigh => ?_, fun hlow => ?_, fun c herr => ?_⟩
  · rw [exec_readLevel_of_level he hhigh, lineRead_of_answer hhigh, Level.bit]
  · rw [exec_readLevel_of_level he hlow, lineRead_of_answer hlow, Level.bit]
  · rw [exec_readLevel_of_err he herr, lineRead_of_answer herr]
    simp [State.failEntry, FailKind.code, FailKind.cause]

/-- Settles O16: the delay is issued and completed, and `SUSP` is back at the 0 it had. -/
theorem delaySuspendsForItsCount : Obligations.DelaySuspendsForItsCount := by
  intro s n hb hu hn
  rw [exec_delay hn (blockEnabled_iff.mpr ⟨hb, hu⟩), delay_eq, delayCount_eq_toNat, ← hu]

end Sys2Proof.Machine
end

section
/-! PROOF. The waits: a loop of checks goes past the misses listed on its line one by one, the check after them ends it, and the
events of any wait are counted along the loop. -/

namespace Sys2Proof.Machine

/-! ### One round of the loop, by the line's answer (rule R78) -/

/-- What a check for `T` can be answered. -/
theorem lineAnswer_cases (T : Level) (s : State) :
    (∃ c, s.lineAnswer = .err c) ∨ s.lineAnswer = .level T ∨ s.lineAnswer = .level T.other := by
  cases s.lineAnswer with
  | err c => exact .inl ⟨c, rfl⟩
  | level l =>
    by_cases hT : l = T
    · exact .inr (.inl (congrArg _ hT))
    · exact .inr (.inr (congrArg _ (eq_other_of_ne hT)))

section Round

variable {P : Config.Params} {T : Level} {left : Nat} {cnt : BitVec 7} {s : State}

/-- A line error ends the wait, whatever is left of the budget (rule R82). -/
theorem pollLoop_of_err {c : LineCause} (h : s.lineAnswer = .err c) :
    pollLoop P T (left + 1) cnt s = .failed ((s.check cnt).failEntry (.lineError c)) := by
  rw [pollLoop, h]

theorem pollLoop_of_target (h : s.lineAnswer = .level T) : pollLoop P T (left + 1) cnt s = .ok () (s.check cnt) := by
  rw [pollLoop, h]
  exact if_pos rfl

theorem pollLoop_of_miss (h : s.lineAnswer = .level T.other) :
    pollLoop P T (left + 2) cnt s = pollLoop P T (left + 1) (cnt + 1) (s.check cnt).owedDelay := by
  rw [pollLoop, h]
  exact (if_neg (other_ne T)).trans (if_neg (Nat.succ_ne_zero left))

theorem pollLoop_of_last_miss (h : s.lineAnswer = .level T.other) :
    pollLoop P T 1 cnt s =
      .failed ((if P.delayAfterLast then (s.check cnt).owedDelay else s.check cnt).failEntry .timeout) := by
  rw [pollLoop, h]
  exact (if_neg (other_ne T)).trans (if_pos rfl)

end Round

/-! ### Waits of a line whose coming answers are listed -/

/-- A check of a line whose coming answers are listed. -/
theorem check_of_cons {s : State} {a : LineAnswer} {rest : List LineAnswer} (cnt : BitVec 7) (h : s.line = a :: rest) :
    s.check cnt = { s with pollCnt := some (cnt + 1), line := rest, trace := s.trace ++ [.read a] } := by
  rw [State.check, lineRead_of_cons h]

theorem owedDelay_eq (s : State) :
    s.owedDelay = { s with pdly := some false, susp := false, trace := s.trace ++ [.delay 1, .delayDone] } := by
  rw [State.owedDelay, delay_eq, Config.pollDelay]

/-- The state of a wait after `m` checks that missed and their delays, with `l` to come on the line. -/
def State.afterMisses (T : Level) (m : Nat) (l : List LineAnswer) (s : State) : State :=
  { s with
    pollCnt := some (BitVec.ofNat 7 m), pdly := some false, line := l,
    trace := s.trace ++ (List.replicate m (missEvents T)).flatten }

/-- A wait starts with no check made. -/
theorem waitReset_eq_afterMisses (T : Level) (s : State) : s.waitReset = s.afterMisses T 0 s.line := by
  simp [State.waitReset, State.afterMisses]

/-- The check after the misses. -/
theorem check_afterMisses (T : Level) (m : Nat) (a : LineAnswer) (l : List LineAnswer) (s : State) :
    (s.afterMisses T m (a :: l)).check (BitVec.ofNat 7 m) = { s with
      pollCnt := some (BitVec.ofNat 7 (m + 1)), pdly := some false, line := l,
      trace := s.trace ++ (List.replicate m (missEvents T)).flatten ++ [.read a] } := by
  rw [check_of_cons _ rfl, BitVec.ofNat_add]
  rfl

/-- One more miss, with its delay. -/
theorem owedDelay_check_afterMisses (T : Level) (m : Nat) (l : List LineAnswer) {s : State} (hu : s.susp = false) :
    ((s.afterMisses T m (.level T.other :: l)).check (BitVec.ofNat 7 m)).owedDelay = s.afterMisses T (m + 1) l := by
  rw [check_afterMisses, owedDelay_eq]
  simp [State.afterMisses, List.replicate_succ', missEvents, hu]

/-- The loop goes past `m` misses that leave one more check in the budget at least. -/
theorem pollLoop_afterMisses (P : Config.Params) (T : Level) (left m i : Nat) (l : List LineAnswer) {s : State}
    (hu : s.susp = false) :
    pollLoop P T (left + m + 1) (BitVec.ofNat 7 i) (s.afterMisses T i (List.replicate m (.level T.other) ++ l)) =
      pollLoop P T (left + 1) (BitVec.ofNat 7 (i + m)) (s.afterMisses T (i + m) l) := by
  induction m generalizing i with
  | zero => rfl
  | succ m ih =>
    calc pollLoop P T (left + m + 2) (BitVec.ofNat 7 i)
          (s.afterMisses T i (.level T.other :: (List.replicate m (.level T.other) ++ l)))
      _ = pollLoop P T (left + m + 1) (BitVec.ofNat 7 (i + 1))
            (s.afterMisses T (i + 1) (List.replicate m (.level T.other) ++ l)) := by
          rw [pollLoop_of_miss rfl, owedDelay_check_afterMisses T i _ hu, BitVec.ofNat_add]
          rfl
      _ = pollLoop P T (left + 1) (BitVec.ofNat 7 (i + (m + 1))) (s.afterMisses T (i + (m + 1)) l) := by
          rw [ih, Nat.add_right_comm i 1 m, Nat.add_assoc]

/-- A wait whose line shows `m` misses first, fewer than the budget, comes to check `m + 1`. -/
theorem poll_of_misses {P : Config.Params} (T : Level) {m left : Nat} {l : List LineAnswer} {s : State} (hu : s.susp = false)
    (hB : P.budget = left + m + 1) (hl : s.line = List.replicate m (.level T.other) ++ l) :
    poll P T s = pollLoop P T (left + 1) (BitVec.ofNat 7 m) (s.afterMisses T m l) := by
  have h := pollLoop_afterMisses P T left m 0 l hu
  rwa [← hB, ← hl, ← waitReset_eq_afterMisses, Nat.zero_add] at h

/-- Settles O17: past the `k - 1` misses, the check that follows reads the target. -/
theorem pollFindsItsLevelAtCheckK : Obligations.PollFindsItsLevelAtCheckK := by
  intro T k s rest hb hu hk hk' hl
  obtain ⟨m, rfl⟩ := Nat.exists_eq_add_of_le' hk
  have hl' : s.line = List.replicate m (.level T.other) ++ .level T :: rest := by simpa [waitAnswers] using hl
  obtain ⟨left, hB⟩ := Nat.exists_eq_add_of_le' hk'
  rw [exec_pollOf T (blockEnabled_iff.mpr ⟨hb, hu⟩), poll_of_misses T hu hB hl', pollLoop_of_target rfl, state_ok,
    check_afterMisses, waitEvents, List.append_assoc, Nat.add_sub_cancel]

/-- Settles O18: past the `k - 1` misses, the check that follows reads the error. -/
theorem pollRaisesALineErrorAtOnce : Obligations.PollRaisesALineErrorAtOnce := by
  intro T k c s rest hb hu hk hk' hl
  obtain ⟨m, rfl⟩ := Nat.exists_eq_add_of_le' hk
  obtain ⟨left, hB⟩ := Nat.exists_eq_add_of_le' hk'
  rw [exec_pollOf T (blockEnabled_iff.mpr ⟨hb, hu⟩), poll_of_misses T hu hB hl, pollLoop_of_err rfl, state_failed,
    check_afterMisses]
  simp [State.failEntry, FailKind.code, FailKind.cause]

theorem one_le_budget {P : Config.Params} (h : P.wf = true) : 1 ≤ P.budget := by
  simp only [Config.Params.wf, Bool.and_eq_true, decide_eq_true_eq] at h
  exact h.1

/-- Misses for the whole budget: the last one ends the wait, after its delay or before it. -/
theorem poll_timeout {P : Config.Params} {T : Level} {s : State} {rest : List LineAnswer} (hB : 1 ≤ P.budget)
    (hu : s.susp = false) (hl : s.line = List.replicate P.budget (.level T.other) ++ rest) :
    poll P T s = .failed { s with
      phase := .failed, sub := 0, status := 2, cause := none, outData := Payload.zero, resultValid := true,
      pollCnt := some (BitVec.ofNat 7 P.budget), pdly := some false, line := rest,
      trace := s.trace ++ (List.replicate (P.budget - 1) (missEvents T)).flatten ++
        (if P.delayAfterLast then missEvents T else [.read (.level T.other)]) ++ [.result 2 none Payload.zero] } := by
  obtain ⟨m, hm⟩ := Nat.exists_eq_add_of_le' hB
  have hl' : s.line = List.replicate m (.level T.other) ++ .level T.other :: rest := by
    simpa [hm, List.replicate_succ'] using hl
  rw [poll_of_misses (left := 0) T hu (by omega) hl', pollLoop_of_last_miss rfl, check_afterMisses, hm]
  cases P.delayAfterLast with
  | true => simp [owedDelay_eq, hu, State.failEntry, FailKind.code, FailKind.cause, missEvents]
  | false => simp [State.failEntry, FailKind.code, FailKind.cause]

/-- Settles O19: the whole budget of misses, and for this hardware the last one with its delay as the others. -/
theorem pollTimesOutAfterTheBudget : Obligations.PollTimesOutAfterTheBudget := by
  refine ⟨fun P T s rest hP hu hl => poll_timeout (one_le_budget hP) hu hl, fun T s rest hb hu hl => ?_⟩
  have hevents : (List.replicate 100 (missEvents T)).flatten = (List.replicate 99 (missEvents T)).flatten ++ missEvents T := by
    rw [List.replicate_succ', List.flatten_append, List.flatten_singleton]
  rw [exec_pollOf T (blockEnabled_iff.mpr ⟨hb, hu⟩), poll_timeout (by decide) hu hl, hevents, ← List.append_assoc]
  rfl

/-! ### The events of any wait, counted (rule R81) -/

/-- The events hold so many reads and so many delays, each of 1 unit. -/
structure ReadsAndDelays (es : List Event) (reads delays : Nat) : Prop where
  reads : readCount es = reads
  unitDelays : delaysOf 1 es = delays
  units : timeUnits es = delays

theorem ReadsAndDelays.append {es fs : List Event} {r r' d d' : Nat} (h : ReadsAndDelays es r d) (h' : ReadsAndDelays fs r' d') :
    ReadsAndDelays (es ++ fs) (r + r') (d + d') where
  reads := List.countP_append.trans (congrArg₂ (· + ·) h.reads h'.reads)
  unitDelays := List.countP_append.trans (congrArg₂ (· + ·) h.unitDelays h'.unitDelays)
  units := by
    rw [timeUnits, List.map_append, List.sum_append]
    exact congrArg₂ (· + ·) h.units h'.units

/-- The rows of the table of R81: with `left` checks left, the wait ends after `m` misses and one more check, and `n` delays. -/
def EndsAsTabled (P : Config.Params) (left m n : Nat) (s : State) : Run Unit → Prop
  | .ok _ t => t.phase = s.phase ∧ n = m
  | .failed t =>
    t.phase = .failed ∧ ((t.status = 1 ∧ n = m) ∨ (t.status = 2 ∧ m + 1 = left ∧ n = m + P.delayAfterLast.toNat))

/-- A miss and its delay before a wait. -/
theorem EndsAsTabled.after_miss {P : Config.Params} {left m n : Nat} {s t : State} {r : Run Unit}
    (h : EndsAsTabled P left m n t r) (hp : t.phase = s.phase) : EndsAsTabled P (left + 1) (m + 1) (n + 1) s r := by
  cases r with
  | ok v u =>
    obtain ⟨hu, hn⟩ := h
    exact ⟨hu.trans hp, by omega⟩
  | failed u =>
    obtain ⟨hu, ⟨h1, hn⟩ | ⟨h2, hm, hn⟩⟩ := h
    · exact ⟨hu, .inl ⟨h1, by omega⟩⟩
    · exact ⟨hu, .inr ⟨h2, by omega, by omega⟩⟩

/-- The run of a wait with `left` checks left adds events that are counted as the table of R81 says. -/
def RunsAsTabled (P : Config.Params) (left : Nat) (s : State) (r : Run Unit) : Prop :=
  ∃ (m n : Nat) (es : List Event),
    m < left ∧ r.state.trace = s.trace ++ es ∧ ReadsAndDelays es (m + 1) n ∧ EndsAsTabled P left m n s r

section Tabled

variable {P : Config.Params} {T : Level} {left : Nat} {cnt : BitVec 7} {s : State}

theorem runsAsTabled_of_err {c : LineCause} (ha : s.lineAnswer = .err c) :
    RunsAsTabled P (left + 1) s (pollLoop P T (left + 1) cnt s) := by
  rw [pollLoop_of_err ha]
  exact ⟨0, 0, [.read (.err c), .result 1 (some c) Payload.zero], left.succ_pos,
    by simp [ha, FailKind.code, FailKind.cause], ⟨rfl, rfl, rfl⟩, rfl, .inl ⟨rfl, rfl⟩⟩

theorem runsAsTabled_of_target (ha : s.lineAnswer = .level T) :
    RunsAsTabled P (left + 1) s (pollLoop P T (left + 1) cnt s) := by
  rw [pollLoop_of_target ha]
  exact ⟨0, 0, [.read (.level T)], left.succ_pos, by simp [ha], ⟨rfl, rfl, rfl⟩, rfl, rfl⟩

/-- The budget used up: one more read, and its delay if the parameter says so. -/
theorem runsAsTabled_of_last_miss (ha : s.lineAnswer = .level T.other) : RunsAsTabled P 1 s (pollLoop P T 1 cnt s) := by
  rw [pollLoop_of_last_miss ha]
  cases hd : P.delayAfterLast with
  | true =>
    exact ⟨0, 1, missEvents T ++ [.result 2 none Payload.zero], Nat.one_pos,
      by simp [owedDelay_eq, ha, missEvents, FailKind.code, FailKind.cause], ⟨rfl, rfl, rfl⟩, rfl,
      .inr ⟨rfl, rfl, by rw [hd]; rfl⟩⟩
  | false =>
    exact ⟨0, 0, [.read (.level T.other), .result 2 none Payload.zero], Nat.one_pos,
      by simp [ha, FailKind.code, FailKind.cause], ⟨rfl, rfl, rfl⟩, rfl, .inr ⟨rfl, rfl, by rw [hd]; rfl⟩⟩

/-- A miss and its delay before a wait: one read and one delay more. -/
theorem RunsAsTabled.after_miss {r : Run Unit} (ha : s.lineAnswer = .level T.other)
    (h : RunsAsTabled P left (s.check cnt).owedDelay r) : RunsAsTabled P (left + 1) s r := by
  obtain ⟨m, n, es, hm, ht, hc, he⟩ := h
  have hmiss : ReadsAndDelays (missEvents T) 1 1 := ⟨rfl, rfl, rfl⟩
  refine ⟨m + 1, n + 1, missEvents T ++ es, by omega, ?_, ?_, he.after_miss rfl⟩
  · rw [ht, owedDelay_eq]
    simp [ha, missEvents]
  · rw [Nat.add_comm (m + 1), Nat.add_comm n]
    exact hmiss.append hc

end Tabled

/-- Each round ends the wait as the table says, or is a miss before a wait that does. -/
theorem runsAsTabled_pollLoop (P : Config.Params) (T : Level) (left : Nat) (cnt : BitVec 7) (s : State) :
    RunsAsTabled P (left + 1) s (pollLoop P T (left + 1) cnt s) := by
  induction left generalizing cnt s with
  | zero =>
    obtain ⟨c, ha⟩ | ha | ha := lineAnswer_cases T s
    · exact runsAsTabled_of_err ha
    · exact runsAsTabled_of_target ha
    · exact runsAsTabled_of_last_miss ha
  | succ left ih =>
    obtain ⟨c, ha⟩ | ha | ha := lineAnswer_cases T s
    · exact runsAsTabled_of_err ha
    · exact runsAsTabled_of_target ha
    · rw [pollLoop_of_miss ha]
      exact (ih _ _).after_miss ha

/-- Settles O20: the wait is the loop with the whole budget left, from counters at 0. -/
theorem waitCountsAreThoseOfTheTable : Obligations.WaitCountsAreThoseOfTheTable := by
  intro P T s hP
  obtain ⟨left, hB⟩ := Nat.exists_eq_add_of_le' (one_le_budget hP)
  have h : RunsAsTabled P P.budget s.waitReset (poll P T s) := by
    rw [poll, hB]
    exact runsAsTabled_pollLoop P T left 0 s.waitReset
  obtain ⟨m, n, es, hm, ht, hc, he⟩ := h
  refine ⟨m + 1, es, by omega, hm, ht, hc.reads, ?_⟩
  rw [hc.unitDelays, hc.units]
  generalize poll P T s = r at he
  cases r with
  | ok v t =>
    obtain ⟨hp, hn⟩ := he
    exact ⟨hp, hn, hn⟩
  | failed t =>
    obtain ⟨hp, ⟨h1, hn⟩ | ⟨h2, hk, hn⟩⟩ := he
    · exact ⟨hp, .inl ⟨h1, hn, hn⟩⟩
    · have hd : n = if P.delayAfterLast then P.budget else P.budget - 1 := by
        cases hlast : P.delayAfterLast with
        | true => rw [hn, hlast, if_pos rfl]; exact hk
        | false => rw [hn, hlast, if_neg Bool.false_ne_true]; exact Nat.eq_sub_of_add_eq hk
      exact ⟨hp, .inr ⟨h2, hk, hd, hd⟩⟩

/-! ### What a wait leaves unchanged -/

/-- A wait given while `BUSY = 0` or `SUSP = 1` is turned away (rule R98). -/
theorem exec_pollOf_of_not_enabled (T : Level) {s : State} (hs : s.blockEnabled = false) : exec (pollOf T) s = .next s := by
  have hoff : ¬ s.blockEnabled = true := Bool.eq_false_iff.mp hs
  cases T with
  | high => exact if_neg hoff
  | low => exact if_neg hoff

/-- Settles O21: a wait that is taken is a sub-step of a read, and one that never writes `BIT`. -/
theorem pollFrame : Obligations.PollFrame := by
  intro T s t h
  cases hs : s.blockEnabled with
  | false =>
    obtain rfl : s = t := Host.Outcome.next.inj ((exec_pollOf_of_not_enabled T hs).symm.trans h)
    exact ⟨rfl, rfl, rfl, rfl, rfl, rfl, rfl, rfl, rfl, ⟨[], (List.append_nil _).symm⟩, .inl ⟨rfl, rfl, rfl, rfl, rfl, rfl⟩⟩
  | true =>
    have hu : s.susp = false := (blockEnabled_iff.mp hs).2
    obtain rfl : (poll Config.hw T s).state = t := Host.Outcome.next.inj ((exec_pollOf T hs).symm.trans h)
    obtain ⟨hk, he⟩ := poll_subStep Config.hw T s hu
    obtain ⟨es, hes, -⟩ := hk.trace
    refine ⟨hk.byteIdx, hk.bitIdx, hk.shift, poll_bit _ T s, hk.frame, hk.susp.trans hu.symm, hk.inputs, hk.drive,
      hk.lineShared, ⟨es, hes⟩, ?_⟩
    cases hr : poll Config.hw T s with
    | ok v u =>
      rw [hr] at he
      obtain ⟨hphase, hsub, hvalid, hstatus, hcause, hdata⟩ := he
      exact .inl ⟨hphase, hsub, hvalid, hstatus, hcause, hdata⟩
    | failed u =>
      rw [hr] at he
      obtain ⟨hphase, hsub, hvalid, hdata, hkind⟩ := he
      exact .inr ⟨hphase, hsub, hvalid, hdata, hkind⟩

end Sys2Proof.Machine
end

section
/-! PROOF. A bit read: on a listed line it is its two waits and the sample between them, as operations it is its expansion, and it
keeps what a sub-step of a read keeps. -/

namespace Sys2Proof.Machine

theorem exec_sampleBit {s : State} (hs : s.blockEnabled = true) :
    exec .sampleBit s = .next (sampleBit Config.hw s).state := if_pos hs

/-! ### A bit on a listed line -/

/-- A wait on a line that shows its level at check `k` succeeds there (rule R81). -/
theorem poll_of_waitAnswers {P : Config.Params} {T : Level} {k : Nat} {s : State} {rest : List LineAnswer} (hu : s.susp = false)
    (hk : 1 ≤ k) (hB : k ≤ P.budget) (hl : s.line = waitAnswers T k ++ rest) :
    poll P T s = .ok () { s with
      pollCnt := some (BitVec.ofNat 7 k), pdly := some false, line := rest, trace := s.trace ++ waitEvents T k } := by
  obtain ⟨m, rfl⟩ := Nat.exists_eq_add_of_le' hk
  have hl' : s.line = List.replicate m (.level T.other) ++ .level T :: rest := by simpa [waitAnswers] using hl
  obtain ⟨left, hleft⟩ := Nat.exists_eq_add_of_le' hB
  rw [poll_of_misses T hu hleft hl', pollLoop_of_target rfl, check_afterMisses, waitEvents, List.append_assoc,
    Nat.add_sub_cancel]

/-- A sample of a level that is listed (rule R75). -/
theorem sampleLevel_of_cons {s : State} {l : Level} {rest : List LineAnswer} (h : s.line = .level l :: rest) :
    sampleLevel s =
      .ok l.bit { s with bit := some l.bit, line := rest, trace := s.trace ++ [.read (.level l)] } := by
  simp only [sampleLevel, lineAnswer_of_cons h, lineRead_of_cons h]

/-- A bit read on the line of its script, for any budget that the script keeps to (rule R84). -/
theorem sampleBit_of_answers {P : Config.Params} {x : BitScript} {s : State} {rest : List LineAnswer} (hu : s.susp = false)
    (hr : 1 ≤ x.rise) (hr' : x.rise ≤ P.budget) (hf : 1 ≤ x.fall) (hf' : x.fall ≤ P.budget) (hl : s.line = x.answers ++ rest) :
    sampleBit P s = .ok x.bit { s with
      bit := some x.bit, pollCnt := some (BitVec.ofNat 7 x.fall), pdly := some false, line := rest,
      trace := s.trace ++ x.events } := by
  have hl' : s.line = waitAnswers .high x.rise ++ .level (Level.ofBit x.bit) :: (waitAnswers .low x.fall ++ rest) := by
    simpa [BitScript.answers] using hl
  rw [sampleBit, poll_of_waitAnswers hu hr hr' hl', andThen_ok, delay_eq, sampleLevel_of_cons rfl, andThen_ok,
    poll_of_waitAnswers rfl hf hf' rfl, andThen_ok, bit_ofBit]
  simp [hu, BitScript.events, Config.sampleDelay]

/-- The events of a wait, counted: its misses and its last read. -/
theorem countP_waitEvents (p : Event → Bool) (T : Level) (k : Nat) :
    (waitEvents T k).countP p = (k - 1) * (missEvents T).countP p + [Event.read (.level T)].countP p := by
  simp [waitEvents, List.countP_append, List.countP_flatten]

theorem readCount_waitEvents (T : Level) {k : Nat} (hk : 1 ≤ k) : readCount (waitEvents T k) = k := by
  have hmiss : (missEvents T).countP Event.isRead = 1 := rfl
  have hlast : [Event.read (.level T)].countP Event.isRead = 1 := rfl
  rw [readCount, countP_waitEvents, hmiss, hlast, Nat.mul_one, Nat.sub_add_cancel hk]

theorem delaysOf_waitEvents (n : Nat) (T : Level) (k : Nat) : delaysOf n (waitEvents T k) = if n = 1 then k - 1 else 0 := by
  rw [delaysOf, countP_waitEvents]
  by_cases hn : n = 1
  · simp [missEvents, hn]
  · simp [missEvents, hn, Ne.symm hn]

/-- The events of a bit read, counted part by part. -/
theorem BitScript.countP_events (p : Event → Bool) (x : BitScript) :
    x.events.countP p = (waitEvents .high x.rise).countP p +
      [.delay 35, .delayDone, .read (.level (Level.ofBit x.bit))].countP p + (waitEvents .low x.fall).countP p := by
  simp only [BitScript.events, List.countP_append]

theorem BitScript.events_counts {x : BitScript} (hr : 1 ≤ x.rise) (hf : 1 ≤ x.fall) :
    readCount x.events = x.rise + 1 + x.fall ∧ delaysOf 35 x.events = 1 ∧
      delaysOf 1 x.events = (x.rise - 1) + (x.fall - 1) := by
  refine ⟨(countP_events _ x).trans ?_, (countP_events _ x).trans ?_, (countP_events _ x).trans ?_⟩
  · exact congrArg₂ (· + 1 + ·) (readCount_waitEvents .high hr) (readCount_waitEvents .low hf)
  · exact congrArg₂ (· + 1 + ·) (delaysOf_waitEvents 35 .high x.rise) (delaysOf_waitEvents 35 .low x.fall)
  · exact congrArg₂ (· + ·) (delaysOf_waitEvents 1 .high x.rise) (delaysOf_waitEvents 1 .low x.fall)

/-- Settles O22: the three listed parts of the line in turn, and the events of each counted. -/
theorem sampleBitReadsTheLevelAtTheSample : Obligations.SampleBitReadsTheLevelAtTheSample := by
  intro x s rest hb hu hx hl
  simp only [BitScript.inBudget, Bool.and_eq_true, decide_eq_true_eq] at hx
  obtain ⟨⟨⟨hr, hr'⟩, hf⟩, hf'⟩ := hx
  refine ⟨?_, BitScript.events_counts hr hf⟩
  rw [exec_sampleBit (blockEnabled_iff.mpr ⟨hb, hu⟩), sampleBit_of_answers hu hr hr' hf hf' hl, state_ok]

/-! ### A bit read as operations -/

/-- An internal operation given while `BUSY = 0` or `SUSP = 1` is turned away (rule R98). -/
theorem exec_of_not_enabled {i : Instr} (hw : i.wf = true) (hi : i.isHostCommand = false) {s : State}
    (hs : s.blockEnabled = false) : exec i s = .next s := by
  have hoff : ¬ s.blockEnabled = true := Bool.eq_false_iff.mp hs
  cases i with
  | delay n =>
    have hn : n ≠ 0 := by simpa [Instr.wf] using hw
    exact (if_neg hn).trans (if_neg hoff)
  | readByte slot =>
    have h4 : ¬ 4 < slot := by simpa [Instr.wf] using hw
    exact (if_neg h4).trans (if_neg hoff)
  | driveHigh | readLevel | pollLow | pollHigh | sampleBit | validate => exact if_neg hoff
  | readFrame | abort => cases hi

/-- A sequence of internal operations is turned away as a whole. -/
theorem execAll_of_not_enabled {is : List Instr} (h : ∀ i ∈ is, i.wf = true ∧ i.isHostCommand = false) {s : State}
    (hs : s.blockEnabled = false) : execAll is s = .next s := by
  induction is with
  | nil => rfl
  | cons i is ih =>
    obtain ⟨hw, hi⟩ := h i (by simp)
    rw [execAll_cons_of_next (exec_of_not_enabled hw hi hs), ih fun j hj => h j (by simp [hj])]

theorem next_state_andThen {α β : Type} (r : Run α) (f : α → State → Run β) :
    Host.Outcome.next (r.andThen f).state = (r.thenOut fun v t => .next (f v t).state : Out) := by
  cases r with
  | ok v t => rfl
  | failed t => rfl

/-- What a run returns at its end is not in the state. -/
theorem state_andThen_ok {α β : Type} (r : Run α) (b : β) : (r.andThen fun _ t => .ok b t).state = r.state := by
  cases r with
  | ok v t => rfl
  | failed t => rfl

/-- After the rise: the delay does not fail, a failed sample turns the wait for the fall away. -/
theorem execAll_afterRise {s : State} (hs : s.blockEnabled = true) :
    execAll [.delay 35, .readLevel, .pollLow] s =
      .next ((sampleLevel (s.delay Config.sampleDelay)).andThen fun b t =>
        (poll Config.hw .low t).andThen fun _ u => .ok b u).state := by
  have hd : (s.delay Config.sampleDelay).blockEnabled = true := blockEnabled_iff.mpr ⟨(blockEnabled_iff.mp hs).1, rfl⟩
  have hset : (sampleLevel (s.delay Config.sampleDelay)).Settles := (sampleLevel_subStep _ rfl).settles hd
  have hdelay : exec (.delay 35) s = .next (s.delay Config.sampleDelay) := exec_delay (by decide) hs
  rw [execAll_cons_of_next hdelay, next_state_andThen, execAll_cons_of_run (exec_readLevel hd) hset (by decide)]
  cases hr : sampleLevel (s.delay Config.sampleDelay) with
  | failed t => rfl
  | ok b t =>
    rw [hr] at hset
    rw [thenOut_ok, thenOut_ok, execAll_singleton, state_andThen_ok]
    exact exec_pollOf .low hset

/-- Settles O23: each operation is the run at its place; where the block is not enabled, all are turned away. -/
theorem sampleBitIsItsExpansion : Obligations.SampleBitIsItsExpansion := by
  refine ⟨rfl, fun s => ?_⟩
  cases hs : s.blockEnabled with
  | false => rw [exec_of_not_enabled rfl rfl hs, execAll_of_not_enabled (by decide) hs]
  | true =>
    have hset : (poll Config.hw .high s).Settles := poll_settles _ _ hs
    have hpoll : exec .pollHigh s = .next (poll Config.hw .high s).state := exec_pollOf .high hs
    rw [exec_sampleBit hs, sampleBit, next_state_andThen, execAll_cons_of_run hpoll hset (by decide)]
    cases hr : poll Config.hw .high s with
    | failed t => rfl
    | ok v t =>
      rw [hr] at hset
      exact (execAll_afterRise hset).symm

/-! ### What a bit read leaves unchanged -/

theorem SubStep.goesOn_or_hasFailed {α : Type} {s : State} {r : Run α} (h : SubStep s r) :
    GoesOn s r.state ∨ HasFailed r.state := by
  cases r with
  | ok v t => exact .inl h.ends
  | failed t => exact .inr h.ends

/-- Settles O24: a bit read that is taken is a sub-step of a read. -/
theorem sampleBitFrame : Obligations.SampleBitFrame := by
  intro s t h
  cases hs : s.blockEnabled with
  | false =>
    obtain rfl : s = t := Host.Outcome.next.inj ((exec_of_not_enabled rfl rfl hs).symm.trans h)
    exact ⟨rfl, rfl, rfl, rfl, rfl, rfl, rfl, rfl, ⟨[], (List.append_nil _).symm⟩, .inl ⟨rfl, rfl, rfl, rfl, rfl, rfl⟩⟩
  | true =>
    have hu : s.susp = false := (blockEnabled_iff.mp hs).2
    obtain rfl : (sampleBit Config.hw s).state = t := Host.Outcome.next.inj ((exec_sampleBit hs).symm.trans h)
    have hstep := sampleBit_subStep Config.hw s hu
    have hk := hstep.keeps
    obtain ⟨es, hes, -⟩ := hk.trace
    refine ⟨hk.byteIdx, hk.bitIdx, hk.shift, hk.frame, hk.susp.trans hu.symm, hk.inputs, hk.drive, hk.lineShared, ⟨es, hes⟩, ?_⟩
    obtain ⟨hphase, hsub, hvalid, hstatus, hcause, hdata⟩ | ⟨hphase, hsub, hvalid, hdata, hkind⟩ := hstep.goesOn_or_hasFailed
    · exact .inl ⟨hphase, hsub, hvalid, hstatus, hcause, hdata⟩
    · exact .inr ⟨hphase, hsub, hvalid, hdata, hkind⟩

end Sys2Proof.Machine
end

section
/-! PROOF. A bit read in a timed environment (decision D12): each read answers the line's level at its time, so a wait ends when the
line first shows its level, and the sample falls 35 units after the rise. -/

namespace Sys2Proof.Machine

/-! ### Time along a run -/

theorem answersFrom_append {wave : Nat → Level} {τ : Nat} {es fs : List Event} :
    answersFrom wave τ (es ++ fs) ↔ answersFrom wave τ es ∧ answersFrom wave (τ + timeUnits es) fs := by
  induction es generalizing τ with
  | nil => simp [answersFrom, timeUnits]
  | cons e es ih =>
    have hunits : timeUnits (e :: es) = e.units + timeUnits es := by simp [timeUnits]
    cases e <;> simp [answersFrom, ih, hunits, Event.units, Nat.add_assoc, and_assoc]

/-- Between the states the time goes from `τ` to `τ'`, and each read of the line answers the wave's level at its time. -/
def Follows (wave : Nat → Level) (τ : Nat) (s : State) (τ' : Nat) (t : State) : Prop :=
  ∃ es, t.trace = s.trace ++ es ∧ answersFrom wave τ es ∧ τ' = τ + timeUnits es

/-- From `τ` on, the wave shows the level first at `τ + m`. -/
def ShowsFirst (wave : Nat → Level) (T : Level) (τ m : Nat) : Prop := wave (τ + m) = T ∧ ∀ i < m, wave (τ + i) = T.other

theorem ShowsFirst.after_unit {wave : Nat → Level} {T : Level} {τ m : Nat} (h : ShowsFirst wave T τ (m + 1)) :
    ShowsFirst wave T (τ + 1) m := by
  obtain ⟨hfirst, hbefore⟩ := h
  refine ⟨?_, fun i hi => ?_⟩
  · rw [Nat.add_assoc, Nat.add_comm 1, hfirst]
  · rw [Nat.add_assoc, Nat.add_comm 1, hbefore (i + 1) (Nat.succ_lt_succ hi)]

/-- The delay and the sample of a bit read are a sub-step. -/
theorem delayedSample_subStep (s : State) : SubStep s (sampleLevel (s.delay Config.sampleDelay)) :=
  (sampleLevel_subStep (s.delay Config.sampleDelay) rfl).from (delay_keeps _ s) ⟨rfl, rfl, rfl, rfl, rfl, rfl⟩

/-- The wait for the fall is a sub-step, whatever is returned after it. -/
theorem fall_subStep {α : Type} (P : Config.Params) (b : α) {s : State} (hu : s.susp = false) :
    SubStep s ((poll P .low s).andThen fun _ t => .ok b t) :=
  (poll_subStep P .low s hu).andThen fun _ _ ht => .of_ok (.refl ht) (.refl _)

section Wave

variable {wave : Nat → Level} {τ τ' : Nat} {s t u : State}

/-- A state on the way has its own time. -/
theorem Follows.split (h : Follows wave τ s τ' t) (hsu : SubStepKeeps s u) (hut : SubStepKeeps u t) :
    ∃ τu, Follows wave τ s τu u ∧ Follows wave τu u τ' t := by
  obtain ⟨es, ht, ha, rfl⟩ := h
  obtain ⟨fs, hu, -⟩ := hsu.trace
  obtain ⟨gs, hg, -⟩ := hut.trace
  obtain rfl : es = fs ++ gs := List.append_cancel_left (by rw [← ht, hg, hu, List.append_assoc])
  obtain ⟨hf, hgs⟩ := answersFrom_append.mp ha
  exact ⟨_, ⟨fs, hu, hf, rfl⟩, gs, hg, hgs, by simp [timeUnits, Nat.add_assoc]⟩

/-- The one list of events added is answered by the wave. -/
theorem Follows.of_trace (h : Follows wave τ s τ' t) {es : List Event} (ht : t.trace = s.trace ++ es) :
    answersFrom wave τ es ∧ τ' = τ + timeUnits es := by
  obtain ⟨fs, hf, ha, hτ⟩ := h
  obtain rfl : fs = es := List.append_cancel_left (hf.symm.trans ht)
  exact ⟨ha, hτ⟩

/-- Two sub-steps in a row, in time: the second follows from the time the first has come to. -/
theorem Follows.andThen {α β : Type} {r : Run α} {k : α → State → Run β} (h : Follows wave τ s τ' (r.andThen k).state)
    (hr : SubStep s r) (hk : ∀ v u, u.susp = false → SubStep u (k v u)) :
    ∃ τr, Follows wave τ s τr r.state ∧ ∀ v u, r = .ok v u → Follows wave τr u τ' (k v u).state := by
  cases r with
  | failed u => exact ⟨τ', h, fun v u hvu => by cases hvu⟩
  | ok v u =>
    obtain ⟨τr, h1, h2⟩ := h.split hr.keeps (hk v u hr.keeps.susp).keeps
    exact ⟨τr, h1, fun v' u' hvu => by cases hvu; exact h2⟩

/-! ### The sample and the waits -/

/-- A read that follows the wave is answered by its level now, and takes no time. -/
theorem Follows.of_read {a : LineAnswer} (h : Follows wave τ s τ' t) (ht : t.trace = s.trace ++ [.read a]) :
    a = .level (wave τ) ∧ τ' = τ := by
  obtain ⟨⟨ha, -⟩, hτ⟩ := h.of_trace ht
  exact ⟨ha, hτ⟩

/-- A sample of the wave is its level now. -/
theorem sampleLevel_of_follows (h : Follows wave τ s τ' (sampleLevel s).state) :
    ∃ u, sampleLevel s = .ok (wave τ).bit u ∧ u.bit = some (wave τ).bit ∧ u.susp = s.susp ∧ τ' = τ := by
  cases ha : s.lineAnswer with
  | level l =>
    have hrun : sampleLevel s = .ok l.bit { s.lineRead with bit := some l.bit } := by rw [sampleLevel, ha]
    rw [hrun] at h
    obtain ⟨hl, hτ⟩ := h.of_read (a := .level l) (by simp [ha])
    obtain rfl : l = wave τ := LineAnswer.level.inj hl
    exact ⟨_, hrun, rfl, rfl, hτ⟩
  | err c =>
    have hrun : sampleLevel s = .failed (s.lineRead.failEntry (.lineError c)) := by rw [sampleLevel, ha]
    rw [hrun] at h
    obtain ⟨⟨herr, -⟩, -⟩ := h.of_trace (es := [.read (.err c), .result 1 (some c) Payload.zero])
      (by simp [ha, FailKind.code, FailKind.cause])
    cases herr

/-- Whatever a wait with checks left answers, it has made one check first. -/
theorem pollLoop_keeps_after_check (P : Config.Params) (T : Level) (left : Nat) (cnt : BitVec 7) (hu : s.susp = false) :
    SubStepKeeps (s.check cnt) (pollLoop P T (left + 1) cnt s).state := by
  obtain ⟨c, ha⟩ | ha | ha := lineAnswer_cases T s
  · rw [pollLoop_of_err ha]
    exact failEntry_keeps _ _ hu
  · rw [pollLoop_of_target ha]
    exact .refl hu
  · cases left with
    | zero =>
      rw [pollLoop_of_last_miss ha]
      cases P.delayAfterLast with
      | true => exact (owedDelay_keeps _).trans (failEntry_keeps _ _ rfl)
      | false => exact failEntry_keeps _ _ hu
    | succ left =>
      rw [pollLoop_of_miss ha]
      exact (owedDelay_keeps _).trans (pollLoop_subStep P T _ _ _ rfl).keeps

/-- So the answer to that check is the wave's level now. -/
theorem lineAnswer_of_follows {P : Config.Params} {T : Level} {left : Nat} {cnt : BitVec 7} (hu : s.susp = false)
    (h : Follows wave τ s τ' (pollLoop P T (left + 1) cnt s).state) : s.lineAnswer = .level (wave τ) := by
  obtain ⟨τ1, h1, -⟩ := h.split (check_keeps s cnt hu) (pollLoop_keeps_after_check P T left cnt hu)
  exact (h1.of_read rfl).1

/-- A wait finds the level when the wave first shows it, if the budget reaches so far: one unit passes with each miss. -/
theorem pollLoop_of_follows {P : Config.Params} {T : Level} {left m : Nat} {cnt : BitVec 7} (hu : s.susp = false)
    (hw : ShowsFirst wave T τ m) (hm : m ≤ left) (h : Follows wave τ s τ' (pollLoop P T (left + 1) cnt s).state) :
    ∃ u, pollLoop P T (left + 1) cnt s = .ok () u ∧ τ' = τ + m := by
  induction m generalizing left cnt s τ with
  | zero =>
    have ha : s.lineAnswer = .level T := hw.1 ▸ lineAnswer_of_follows hu h
    rw [pollLoop_of_target ha] at h ⊢
    exact ⟨_, rfl, (h.of_read rfl).2⟩
  | succ m ih =>
    have ha : s.lineAnswer = .level T.other := hw.2 0 m.succ_pos ▸ lineAnswer_of_follows hu h
    obtain ⟨left, rfl⟩ := Nat.exists_eq_add_of_le' (Nat.one_le_of_lt hm)
    rw [pollLoop_of_miss ha] at h ⊢
    obtain ⟨τ2, h2, h3⟩ := h.split ((check_keeps s cnt hu).trans (owedDelay_keeps _))
      (pollLoop_subStep P T (left + 1) (cnt + 1) _ rfl).keeps
    obtain rfl : τ2 = τ + 1 := (h2.of_trace (es := missEvents T) (by simp [owedDelay_eq, ha, missEvents])).2
    obtain ⟨u, hr, hτ⟩ := ih rfl hw.after_unit (Nat.le_of_succ_le_succ hm) h3
    exact ⟨u, hr, by omega⟩

theorem poll_of_follows {P : Config.Params} {T : Level} {m : Nat} (hu : s.susp = false) (hw : ShowsFirst wave T τ m)
    (hm : m < P.budget) (h : Follows wave τ s τ' (poll P T s).state) : ∃ u, poll P T s = .ok () u ∧ τ' = τ + m := by
  obtain ⟨left, hB⟩ := Nat.exists_eq_add_of_lt hm
  rw [poll, hB] at h ⊢
  exact pollLoop_of_follows (s := s.waitReset) hu hw (by omega) h

/-- A bit read whose waits are both in the budget returns the wave's level 35 units after the rise. -/
theorem sampleBit_of_follows {P : Config.Params} {m n : Nat} (hu : s.susp = false) (hrise : ShowsFirst wave .high τ m)
    (hm : m < P.budget) (hfall : ShowsFirst wave .low (τ + m + 35) n) (hn : n < P.budget)
    (h : Follows wave τ s τ' (sampleBit P s).state) :
    ∃ t, sampleBit P s = .ok (wave (τ + m + 35)).bit t ∧ t.bit = some (wave (τ + m + 35)).bit := by
  rw [sampleBit] at h ⊢
  -- the wait for the rise, the delay with the sample, and the wait for the fall, each from the time the one before it has come to
  obtain ⟨τ1, h1, k1⟩ := h.andThen (poll_subStep P .high s hu) fun _ t _ =>
    (delayedSample_subStep t).andThen fun b _ hv => fall_subStep P b hv
  obtain ⟨u, hr1, rfl⟩ := poll_of_follows hu hrise hm h1
  obtain ⟨τ2, h2, k2⟩ := (k1 () u hr1).andThen (delayedSample_subStep u) fun b _ hv => fall_subStep P b hv
  obtain ⟨τd, hd, h2'⟩ := h2.split (delay_keeps _ u) (sampleLevel_subStep _ rfl).keeps
  obtain rfl : τd = τ + m + 35 := (hd.of_trace (es := [.delay 35, .delayDone]) (by rw [delay_eq, Config.sampleDelay])).2
  obtain ⟨v, hr2, hbit, hsusp, rfl⟩ := sampleLevel_of_follows h2'
  obtain ⟨τ3, h3, -⟩ := (k2 _ v hr2).andThen (poll_subStep P .low v hsusp) fun _ _ hv => .of_ok (.refl hv) (.refl _)
  obtain ⟨w, hr3, -⟩ := poll_of_follows hsusp hfall hn h3
  have hw : w.bit = v.bit := by simpa [hr3] using poll_bit P .low v
  exact ⟨w, by rw [hr1, andThen_ok, hr2, andThen_ok, hr3, andThen_ok], hw.trans hbit⟩

end Wave

/-! ### A pulse -/

theorem pulse_showsFirst_high (rise : Nat) {len : Nat} (h : 1 ≤ len) : ShowsFirst (pulse rise len) .high 0 rise :=
  ⟨if_pos (by omega), fun _ hi => if_neg (by omega)⟩

/-- At the sample, the pulse has `len - 35` units left, or has ended. -/
theorem pulse_showsFirst_low (rise len : Nat) : ShowsFirst (pulse rise len) .low (0 + rise + 35) (len - 35) :=
  ⟨if_neg (by omega), fun _ hi => if_pos (by omega)⟩

theorem pulse_at_sample (rise len : Nat) : (pulse rise len (0 + rise + 35)).bit = if 35 < len then 1 else 0 := by
  by_cases h : 35 < len
  · rw [if_pos h, pulse, if_pos (by omega), Level.bit]
  · rw [if_neg h, pulse, if_neg (by omega), Level.bit]

/-- Settles O25: both waits end within the budget, and the sample falls 35 units after the rise. -/
theorem pulseLongerThanTheSampleDelayIsAOne : Obligations.PulseLongerThanTheSampleDelayIsAOne := by
  intro rise len s t es hb hu hrise hlen hlen' hexec ht hes
  have hs : s.blockEnabled = true := blockEnabled_iff.mpr ⟨hb, hu⟩
  obtain rfl : (sampleBit Config.hw s).state = t := Host.Outcome.next.inj ((exec_sampleBit hs).symm.trans hexec)
  have hm : rise < Config.hw.budget := show rise < 100 by omega
  have hn : len - 35 < Config.hw.budget := show len - 35 < 100 by omega
  obtain ⟨u, hr, hbit⟩ := sampleBit_of_follows hu (pulse_showsFirst_high rise hlen) hm (pulse_showsFirst_low rise len) hn
    ⟨es, ht, hes, rfl⟩
  have hends := (sampleBit_subStep Config.hw s hu).ends
  rw [hr] at hends
  have hgo : GoesOn s u := hends
  rw [hr, state_ok]
  exact ⟨hgo.phase, hbit.trans (congrArg some (pulse_at_sample rise len))⟩

end Sys2Proof.Machine
end

section
/-! PROOF. The fold law, and the byte that a listed line's bits fold into. -/

namespace Sys2Proof.Machine

/-! ### The fold law (rule R89) -/

theorem bitsValue_lt_two_pow (bs : List (BitVec 1)) : bitsValue bs < 2 ^ bs.length := by
  induction bs using List.reverseRec with
  | nil => exact Nat.one_pos
  | append_singleton bs b ih =>
    have hv : bitsValue (bs ++ [b]) = 2 * bitsValue bs + b.toNat := by simp [bitsValue]
    have hb := b.isLt
    rw [hv, List.length_append, List.length_singleton, pow_succ]
    omega

/-- Up to eight bits fold into the number they spell: nothing is dropped. -/
theorem foldl_foldBit_toNat_eq_bitsValue {bs : List (BitVec 1)} (h : bs.length ≤ 8) :
    (bs.foldl foldBit 0).toNat = bitsValue bs := by
  have hlt : bitsValue bs < 256 := (bitsValue_lt_two_pow bs).trans_le (Nat.pow_le_pow_right Nat.two_pos h)
  rw [foldl_foldBit_toNat, show (0 : Byte).toNat = 0 from rfl, Nat.zero_mul, Nat.zero_add, Nat.mod_eq_of_lt hlt]

theorem foldBit_bit_zero (sh : Byte) (b : BitVec 1) : (foldBit sh b).extractLsb' 0 1 = b :=
  BitVec.extractLsb'_append_eq_right

/-- The fold moves every bit but the last up by one. -/
theorem foldBit_bit_succ (sh : Byte) (b : BitVec 1) {n : Nat} (hn : n < 7) :
    (foldBit sh b).extractLsb' (n + 1) 1 = sh.extractLsb' n 1 := by
  ext j hj
  obtain rfl : j = 0 := Nat.lt_one_iff.mp hj
  rw [BitVec.getElem_extractLsb', BitVec.getElem_extractLsb', Nat.add_zero, Nat.add_zero]
  exact BitVec.getLsbD_append.trans (by simp [hn])

/-- The last bits folded in stand at the bottom of `SHIFT`, the last of all at bit 0. -/
theorem foldl_foldBit_bit {bs : List (BitVec 1)} (sh : Byte) {i : Nat} (hi : i < bs.length) (h8 : bs.length - 1 - i < 8) :
    (bs.foldl foldBit sh).extractLsb' (bs.length - 1 - i) 1 = bs[i] := by
  induction bs using List.reverseRec with
  | nil => cases hi
  | append_singleton bs b ih =>
    rw [List.length_append, List.length_singleton] at hi
    simp only [List.length_append, List.length_singleton, Nat.add_sub_cancel, List.foldl_append, List.foldl_cons,
      List.foldl_nil] at h8 ⊢
    by_cases hlast : i = bs.length
    · subst hlast
      rw [Nat.sub_self, foldBit_bit_zero, List.getElem_concat_length rfl]
    · have hi' : i < bs.length := by omega
      rw [List.getElem_append_left hi', ← ih hi' (by omega), show bs.length - i = bs.length - 1 - i + 1 by omega]
      exact foldBit_bit_succ _ b (by omega)

/-- Settles O26: nothing is dropped in eight folds, and each fold moves the earlier bits up by one. -/
theorem foldIsMostSignificantBitFirst : Obligations.FoldIsMostSignificantBitFirst := by
  refine ⟨fun bs h8 => ?_, fun bs h8 i hi => ?_⟩
  · have hv := foldl_foldBit_toNat_eq_bitsValue h8
    have hlt : (bs.foldl foldBit 0).toNat < 2 ^ bs.length := hv ▸ bitsValue_lt_two_pow bs
    refine ⟨hv, hlt, fun hlen => Nat.testBit_lt_two_pow (hlt.trans_le ?_)⟩
    exact Nat.pow_le_pow_right Nat.two_pos (Nat.le_of_lt_succ hlen)
  · have h := foldl_foldBit_bit 0 hi (by omega)
    rwa [h8] at h

/-! ### A byte on a listed line -/

/-- The state after bit `i` of a byte is read on the line of its script and folded in to `v`, with `rest` to come on the line. -/
def State.afterBit (x : BitScript) (i : BitVec 3) (v : Byte) (rest : List LineAnswer) (s : State) : State :=
  { s with
    shift := some v, bitIdx := some i, bit := some x.bit, pollCnt := some (BitVec.ofNat 7 x.fall), pdly := some false,
    line := rest, trace := s.trace ++ x.events }

/-- One bit of a byte read on the line of its script: it is folded in, and the rest of the byte follows (rule R88). -/
theorem readBits_succ_of_answers {x : BitScript} (left : Nat) (i : BitVec 3) (sh : Byte) {s : State} {rest : List LineAnswer}
    (hu : s.susp = false) (hx : x.inBudget = true) (hl : s.line = x.answers ++ rest) :
    readBits Config.hw (left + 1) i sh s =
      readBits Config.hw left (i + 1) (foldBit sh x.bit) (s.afterBit x i (foldBit sh x.bit) rest) := by
  simp only [BitScript.inBudget, Bool.and_eq_true, decide_eq_true_eq] at hx
  obtain ⟨⟨⟨hr, hr'⟩, hf⟩, hf'⟩ := hx
  rw [readBits, sampleBit_of_answers (s := { s with bitIdx := some i }) hu hr hr' hf hf' hl, andThen_ok]
  rfl

/-- The bits of a byte read on the lines of their scripts: `SHIFT` folds them in turn, and the last bit leaves its level and the
counters of its fall wait (rules R88 and R89). -/
theorem readBits_of_answers {x : BitScript} {xs : List BitScript} (i : BitVec 3) (sh : Byte) {s : State} {rest : List LineAnswer}
    (hu : s.susp = false) (hx : (x :: xs).all BitScript.inBudget = true)
    (hl : s.line = ((x :: xs).map BitScript.answers).flatten ++ rest) :
    readBits Config.hw (xs.length + 1) i sh s = .ok (((x :: xs).map BitScript.bit).foldl foldBit sh) { s with
      shift := some (((x :: xs).map BitScript.bit).foldl foldBit sh), bitIdx := some (i + BitVec.ofNat 3 xs.length),
      bit := (x :: xs).getLast?.map BitScript.bit, pollCnt := (x :: xs).getLast?.map (fun y => BitVec.ofNat 7 y.fall),
      pdly := some false, line := rest, trace := s.trace ++ ((x :: xs).map BitScript.events).flatten } := by
  induction xs generalizing x i sh s with
  | nil =>
    refine (readBits_succ_of_answers 0 i sh hu (by simpa using hx) (by simpa using hl)).trans ?_
    simp [readBits, State.afterBit]
  | cons y ys ih =>
    obtain ⟨hx0, hxs⟩ : x.inBudget = true ∧ (y :: ys).all BitScript.inBudget = true := by simpa using hx
    rw [List.map_cons, List.flatten_cons, List.append_assoc] at hl
    rw [readBits_succ_of_answers _ i sh hu hx0 hl, List.length_cons,
      ih _ _ (s := s.afterBit x i (foldBit sh x.bit) _) hu hxs rfl]
    simp [State.afterBit, BitVec.ofNat_add, BitVec.add_assoc, BitVec.add_comm 1#3]

/-- Settles O27: the bits of the scripts fold into the byte that they carry, which then goes into its slot. -/
theorem readByteAssemblesTheByte : Obligations.ReadByteAssemblesTheByte := by
  intro d slot xs s rest hb hu h4 hx hv hl
  have hlen : xs.length = 8 := by rw [← List.length_map (f := BitScript.bit), hv, bitsOf_length]
  have hlast : xs.getLast?.map BitScript.bit = some (d.extractLsb' 0 1) := by
    rw [← List.getLast?_map, hv]
    rfl
  obtain ⟨x, xs, rfl⟩ := List.exists_cons_of_length_eq_add_one hlen
  have h7 : xs.length = 7 := Nat.succ.inj hlen
  have hbits := readBits_of_answers 0 0 (s := { s with shift := some 0 }) hu hx hl
  rw [hv, foldl_foldBit_bitsOf, hlast, h7] at hbits
  rw [exec_readByte h4 (blockEnabled_iff.mpr ⟨hb, hu⟩), readByte]
  exact congrArg (fun r => Host.Outcome.next (Run.andThen r _).state) hbits

end Sys2Proof.Machine
end

section
/-! PROOF. What a byte read leaves unchanged: its bits are a sub-step of a read but for the registers they fold into, and the frame
buffer is written once, after the last of them. -/

namespace Sys2Proof.Machine

/-- The state with other values in the registers that a byte read writes besides those of its bit reads (rule R88). -/
def State.inByte (i : Option (BitVec 3)) (sh : Option Byte) (f : Frame) (s : State) : State :=
  { s with bitIdx := i, shift := sh, frame := f }

theorem SubStepKeeps.inByte {s t : State} (h : SubStepKeeps s t) (i : Option (BitVec 3)) (sh : Option Byte) (f : Frame) :
    SubStepKeeps (s.inByte i sh f) (t.inByte i sh f) :=
  ⟨h.byteIdx, rfl, rfl, rfl, h.susp, h.inputs, h.drive, h.lineShared, h.trace⟩

theorem GoesOn.inByte {s t : State} (h : GoesOn s t) (i : Option (BitVec 3)) (sh : Option Byte) (f : Frame) :
    GoesOn (s.inByte i sh f) (t.inByte i sh f) :=
  ⟨h.phase, h.sub, h.resultValid, h.status, h.cause, h.outData⟩

/-- But for `BIT_IDX` and `SHIFT`, the bits of a byte are a sub-step of a read (rules R33 and R88). -/
theorem readBits_subStep (P : Config.Params) (left : Nat) (i : BitVec 3) (sh : Byte) (s : State) (h : s.susp = false) :
    ∃ i' sh', SubStep (s.inByte i' sh' s.frame) (readBits P left i sh s) := by
  induction left generalizing i sh s with
  | zero => exact ⟨s.bitIdx, s.shift, .of_ok (.refl h) (.refl s)⟩
  | succ left ih =>
    have hbit := sampleBit_subStep P { s with bitIdx := some i } h
    rw [readBits]
    generalize sampleBit P { s with bitIdx := some i } = r at hbit
    cases r with
    | failed t => exact ⟨some i, s.shift, hbit.keeps, hbit.ends⟩
    | ok b t =>
      have hgo : GoesOn { s with bitIdx := some i } t := hbit.ends
      have hf : t.frame = s.frame := hbit.keeps.frame
      obtain ⟨i', sh', hrest⟩ := ih (i + 1) (foldBit sh b) { t with shift := some (foldBit sh b) } hbit.keeps.susp
      rw [← hf]
      exact ⟨i', sh', hrest.from (hbit.keeps.inByte i' sh' t.frame) (hgo.inByte i' sh' t.frame)⟩

/-- Bits that are all read leave their fold in `SHIFT` (rule R88). -/
theorem shift_of_readBits_ok {P : Config.Params} {left : Nat} {i : BitVec 3} {sh v : Byte} {s t : State}
    (hs : s.shift = some sh) (h : readBits P left i sh s = .ok v t) : t.shift = some v := by
  induction left generalizing i sh s with
  | zero =>
    obtain ⟨rfl, rfl⟩ := Run.ok.inj h
    exact hs
  | succ left ih =>
    rw [readBits] at h
    cases hr : sampleBit P { s with bitIdx := some i } with
    | failed u =>
      rw [hr] at h
      cases h
    | ok b u =>
      rw [hr] at h
      exact ih (s := { u with shift := some (foldBit sh b) }) rfl h

/-- How a byte read ends: after its bits it writes the frame buffer once, or it fails as they do (rules R88 and R90). -/
theorem readByte_cases (P : Config.Params) (slot : BitVec 3) (s : State) :
    (∃ v t, readBits P 8 0 0 { s with shift := some 0 } = .ok v t ∧
      readByte P slot s = .ok v { t with frame := t.frame.write slot v }) ∨
    (∃ t, readBits P 8 0 0 { s with shift := some 0 } = .failed t ∧ readByte P slot s = .failed t) := by
  rw [readByte, Config.bitsPerByte]
  cases readBits P 8 0 0 { s with shift := some 0 } with
  | ok v t => exact .inl ⟨v, t, rfl, rfl⟩
  | failed t => exact .inr ⟨t, rfl, rfl⟩

/-- But for `BIT_IDX`, `SHIFT` and the frame buffer, a byte read is a sub-step of a read (rules R33 and R88). -/
theorem readByte_subStep (P : Config.Params) (slot : BitVec 3) (s : State) (h : s.susp = false) :
    ∃ i' sh' f', SubStep (s.inByte i' sh' f') (readByte P slot s) := by
  obtain ⟨i', sh', hbits⟩ := readBits_subStep P 8 0 0 { s with shift := some 0 } h
  obtain ⟨v, t, hr, hbyte⟩ | ⟨t, hr, hbyte⟩ := readByte_cases P slot s
  · rw [hr] at hbits
    have hk := hbits.keeps.inByte i' sh' (t.frame.write slot v)
    have hgo : GoesOn _ t := hbits.ends
    have hi : t.bitIdx = i' := hbits.keeps.bitIdx
    have hsh : t.shift = sh' := hbits.keeps.shift
    subst hi hsh
    rw [hbyte]
    exact ⟨t.bitIdx, t.shift, t.frame.write slot v, .of_ok hk (hgo.inByte t.bitIdx t.shift (t.frame.write slot v))⟩
  · rw [hr] at hbits
    rw [hbyte]
    exact ⟨i', sh', s.frame, hbits⟩

/-- What a byte read from `s` does to the frame buffer: the byte in `SHIFT` goes into its slot, or nothing is written. -/
def WritesAtEnd (slot : BitVec 3) (s : State) : Run Byte → Prop
  | .ok v t => t.shift = some v ∧ t.frame = s.frame.write slot v
  | .failed t => t.frame = s.frame

theorem readByte_writesAtEnd (P : Config.Params) (slot : BitVec 3) (s : State) (h : s.susp = false) :
    WritesAtEnd slot s (readByte P slot s) := by
  obtain ⟨i', sh', hbits⟩ := readBits_subStep P 8 0 0 { s with shift := some 0 } h
  have hf := hbits.keeps.frame
  obtain ⟨v, t, hr, hbyte⟩ | ⟨t, hr, hbyte⟩ := readByte_cases P slot s
  · have hshift : t.shift = some v := shift_of_readBits_ok rfl hr
    rw [hr] at hf
    rw [hbyte]
    exact ⟨hshift, congrArg (Frame.write · slot v) hf⟩
  · rw [hr] at hf
    rw [hbyte]
    exact hf

theorem slot_le_of_exec_readByte {slot : BitVec 3} {s t : State} (h : exec (.readByte slot) s = .next t) : slot ≤ 4 := by
  by_contra h4
  have hr : exec (.readByte slot) s = .refused .reservedOperand := if_pos (by simpa using h4)
  cases hr.symm.trans h

/-- Settles O29: a byte read that is taken is a sub-step but for `BIT_IDX`, `SHIFT` and the frame buffer, which it writes after its
last bit. -/
theorem readByteFrame : Obligations.ReadByteFrame := by
  intro slot s t h
  have h4 : slot ≤ 4 := slot_le_of_exec_readByte h
  cases hs : s.blockEnabled with
  | false =>
    have hw : (Instr.readByte slot).wf = true := by simpa [Instr.wf] using h4
    obtain rfl : s = t := Host.Outcome.next.inj ((exec_of_not_enabled hw rfl hs).symm.trans h)
    exact ⟨rfl, rfl, rfl, rfl, rfl, ⟨[], (List.append_nil _).symm⟩, .inl ⟨rfl, rfl, rfl, rfl, rfl, rfl, fun _ _ => rfl,
      fun he => (Bool.false_ne_true he).elim, fun _ => rfl⟩⟩
  | true =>
    have hu : s.susp = false := (blockEnabled_iff.mp hs).2
    obtain rfl : (readByte Config.hw slot s).state = t := Host.Outcome.next.inj ((exec_readByte h4 hs).symm.trans h)
    obtain ⟨i', sh', f', hk, he⟩ := readByte_subStep Config.hw slot s hu
    obtain ⟨es, hes, -⟩ := hk.trace
    refine ⟨hk.byteIdx, hk.susp.trans hu.symm, hk.inputs, hk.drive, hk.lineShared, ⟨es, hes⟩, ?_⟩
    have hw := readByte_writesAtEnd Config.hw slot s hu
    generalize readByte Config.hw slot s = r at he hw
    cases r with
    | ok v u =>
      obtain ⟨hphase, hsub, hvalid, hstatus, hcause, hdata⟩ := he
      obtain ⟨hshift, hframe⟩ := hw
      rw [state_ok, hshift, hframe]
      refine .inl ⟨hphase, hsub, hvalid, hstatus, hcause, hdata, fun j hj => ?_, fun _ => ⟨rfl, ?_⟩,
        fun hoff => (Bool.false_ne_true hoff.symm).elim⟩
      · rw [read_write, if_neg (hj ·.1)]
      · rw [read_write, if_pos ⟨rfl, h4⟩]
    | failed u =>
      obtain ⟨hphase, hsub, hvalid, hdata, hkind⟩ := he
      exact .inr ⟨hphase, hsub, hvalid, hdata, hw, hkind⟩

end Sys2Proof.Machine
end

section
/-! PROOF. How a byte read fails: the events of each part of a read up to the failing one, put together for the wait, the bit and the
byte. -/

namespace Sys2Proof.Machine

/-! ### How a read fails (rules R90 and R113) -/

/-- The events hold at most `n` delays of 35 units and no line error. -/
structure ErrorFree (n : Nat) (es : List Event) : Prop where
  delays : delaysOf 35 es ≤ n
  noError : ∀ c, Event.read (.err c) ∉ es

theorem ErrorFree.append {m n : Nat} {es fs : List Event} (h : ErrorFree m es) (k : ErrorFree n fs) :
    ErrorFree (m + n) (es ++ fs) where
  delays := List.countP_append.trans_le (Nat.add_le_add h.delays k.delays)
  noError c := by simp [h.noError c, k.noError c]

theorem errorFree_nil : ErrorFree 0 [] := ⟨le_rfl, fun _ => List.not_mem_nil⟩

theorem missEvents_errorFree (T : Level) : ErrorFree 0 (missEvents T) where
  delays := le_rfl
  noError c := by simp [missEvents]

theorem waitEvents_errorFree (T : Level) (k : Nat) : ErrorFree 0 (waitEvents T k) where
  delays := (delaysOf_waitEvents 35 T k).le
  noError c := by simp [waitEvents, missEvents]

/-- The last events of a read that has failed in `t`: the failing one, and the `Result` of its kind. -/
def EndsFailing (t : State) (last : List Event) : Prop :=
  (∃ c, t.status = 1 ∧ t.cause = some c ∧ last = [.read (.err c), .result 1 (some c) Payload.zero]) ∨
  (∃ T, t.status = 2 ∧ t.cause = none ∧ last = missEvents T ++ [.result 2 none Payload.zero])

/-- After the events `es` the read has failed in `t`, with no error before the failing event and at most `n` delays of 35
units. -/
def FailsAfter (n : Nat) (es : List Event) (t : State) : Prop :=
  ∃ fs last, t.trace = es ++ fs ++ last ∧ ErrorFree n fs ∧ EndsFailing t last

theorem FailsAfter.mono {m n : Nat} {es : List Event} {t : State} (h : FailsAfter m es t) (hmn : m ≤ n) :
    FailsAfter n es t := by
  obtain ⟨fs, last, ht, hfs, hlast⟩ := h
  exact ⟨fs, last, ht, ⟨hfs.delays.trans hmn, hfs.noError⟩, hlast⟩

/-- A failure, seen from before the last events that led to it. -/
theorem FailsAfter.before {m n : Nat} {es fs : List Event} {t : State} (h : FailsAfter n (es ++ fs) t) (he : ErrorFree m fs) :
    FailsAfter (m + n) es t := by
  obtain ⟨gs, last, ht, hgs, hlast⟩ := h
  exact ⟨fs ++ gs, last, by rw [ht, List.append_assoc es], he.append hgs, hlast⟩

theorem failEntry_lineError_failsAfter {es : List Event} {t : State} {c : LineCause} (ht : t.trace = es ++ [.read (.err c)]) :
    FailsAfter 0 es (t.failEntry (.lineError c)) :=
  ⟨[], [.read (.err c), .result 1 (some c) Payload.zero], by simp [ht, FailKind.code, FailKind.cause], errorFree_nil,
    .inl ⟨c, rfl, rfl, rfl⟩⟩

theorem failEntry_timeout_failsAfter {es : List Event} {t : State} {T : Level} (ht : t.trace = es ++ missEvents T) :
    FailsAfter 0 es (t.failEntry .timeout) :=
  ⟨[], missEvents T ++ [.result 2 none Payload.zero], by simp [ht, FailKind.code, FailKind.cause], errorFree_nil,
    .inr ⟨T, rfl, rfl, rfl⟩⟩

/-! ### What a run tells of its events -/

/-- A run after the events `es`: if it returns `v` it has added events that are as `E v` says, and if not it has failed after `es`, in
each case with no error before a failing event and at most `n` delays of 35 units. -/
def Run.Tells {α : Type} (n : Nat) (E : α → List Event → Prop) (es : List Event) : Run α → Prop
  | .ok v t => ∃ fs, t.trace = es ++ fs ∧ ErrorFree n fs ∧ E v fs
  | .failed t => FailsAfter n es t

section Tells

variable {α β : Type} {m n : Nat} {E : α → List Event → Prop} {es : List Event} {r : Run α}

theorem Run.Tells.imp {F : α → List Event → Prop} (h : r.Tells n E es) (hEF : ∀ v fs, E v fs → F v fs) : r.Tells n F es := by
  cases r with
  | ok v t =>
    obtain ⟨fs, ht, hfs, hE⟩ := h
    exact ⟨fs, ht, hfs, hEF v fs hE⟩
  | failed t => exact h

/-- A run, seen from before the last events that led to it. -/
theorem Run.Tells.before {fs : List Event} (h : r.Tells n E (es ++ fs)) (he : ErrorFree m fs) :
    r.Tells (m + n) (fun v gs => ∃ hs, gs = fs ++ hs ∧ E v hs) es := by
  cases r with
  | ok v t =>
    obtain ⟨hs, ht, hhs, hE⟩ := h
    exact ⟨fs ++ hs, by rw [ht, List.append_assoc], he.append hhs, hs, rfl, hE⟩
  | failed t => exact FailsAfter.before h he

/-- Runs in a row tell their events in a row; the first failure is the failure (rule R112). -/
theorem Run.Tells.andThen {F : α → β → List Event → Prop} {k : α → State → Run β} (h : r.Tells m E es)
    (hk : ∀ v t, (k v t).Tells n (F v) t.trace) :
    (r.andThen k).Tells (m + n) (fun w gs => ∃ v fs, E v fs ∧ ∃ hs, gs = fs ++ hs ∧ F v w hs) es := by
  cases r with
  | ok v t =>
    obtain ⟨fs, ht, hfs, hE⟩ := h
    have hrest : (k v t).Tells n (F v) (es ++ fs) := ht ▸ hk v t
    exact (hrest.before hfs).imp fun w gs hF => ⟨v, fs, hE, hF⟩
  | failed t => exact FailsAfter.mono h (Nat.le_add_right m n)

end Tells

/-! ### The events of a wait -/

/-- The events are those of a wait that finds its level at one of `left` checks. -/
def FoundWithin (T : Level) (left : Nat) (es : List Event) : Prop := ∃ k, 1 ≤ k ∧ k ≤ left ∧ es = waitEvents T k

/-- A miss and its delay before a wait. -/
theorem FoundWithin.after_miss {T : Level} {left : Nat} {es : List Event} (h : FoundWithin T left es) :
    FoundWithin T (left + 1) (missEvents T ++ es) := by
  obtain ⟨k, hk, hleft, rfl⟩ := h
  obtain ⟨m, rfl⟩ := Nat.exists_eq_add_of_le' hk
  exact ⟨m + 2, Nat.le_add_left 1 _, Nat.succ_le_succ hleft, by simp [waitEvents, List.replicate_succ]⟩

section WaitRound

variable {P : Config.Params} {T : Level} {left : Nat} {cnt : BitVec 7} {s : State}

theorem pollLoop_tells_of_err {c : LineCause} (ha : s.lineAnswer = .err c) :
    (pollLoop P T (left + 1) cnt s).Tells 0 (fun _ => FoundWithin T (left + 1)) s.trace := by
  rw [pollLoop_of_err ha]
  exact failEntry_lineError_failsAfter (by simp [ha])

theorem pollLoop_tells_of_target (ha : s.lineAnswer = .level T) :
    (pollLoop P T (left + 1) cnt s).Tells 0 (fun _ => FoundWithin T (left + 1)) s.trace := by
  rw [pollLoop_of_target ha]
  exact ⟨waitEvents T 1, by simp [ha, waitEvents], waitEvents_errorFree T 1, 1, le_rfl, Nat.le_add_left 1 left, rfl⟩

theorem trace_after_miss (cnt : BitVec 7) (ha : s.lineAnswer = .level T.other) :
    (s.check cnt).owedDelay.trace = s.trace ++ missEvents T := by
  simp [owedDelay_eq, ha, missEvents]

end WaitRound

/-- Each round ends the wait, or is a miss before a wait that ends so (rule R78). -/
theorem pollLoop_tells {P : Config.Params} (hP : P.delayAfterLast = true) (T : Level) (left : Nat) (cnt : BitVec 7) (s : State) :
    (pollLoop P T (left + 1) cnt s).Tells 0 (fun _ => FoundWithin T (left + 1)) s.trace := by
  induction left generalizing cnt s with
  | zero =>
    obtain ⟨c, ha⟩ | ha | ha := lineAnswer_cases T s
    · exact pollLoop_tells_of_err ha
    · exact pollLoop_tells_of_target ha
    · rw [pollLoop_of_last_miss ha, if_pos hP]
      exact failEntry_timeout_failsAfter (trace_after_miss cnt ha)
  | succ left ih =>
    obtain ⟨c, ha⟩ | ha | ha := lineAnswer_cases T s
    · exact pollLoop_tells_of_err ha
    · exact pollLoop_tells_of_target ha
    · have hrest := trace_after_miss cnt ha ▸ ih (cnt + 1) (s.check cnt).owedDelay
      rw [pollLoop_of_miss ha]
      refine (hrest.before (missEvents_errorFree T)).imp fun _ es hes => ?_
      obtain ⟨fs, rfl, hfs⟩ := hes
      exact hfs.after_miss

theorem poll_tells (T : Level) (s : State) : (poll Config.hw T s).Tells 0 (fun _ => FoundWithin T 100) s.trace :=
  pollLoop_tells rfl T 99 0 s.waitReset

/-! ### The events of a bit read -/

/-- The delayed sample fails after its delay, or adds the events of rule R84. -/
theorem delayedSample_tells (s : State) :
    (sampleLevel (s.delay Config.sampleDelay)).Tells 1
      (fun b fs => fs = [.delay 35, .delayDone, .read (.level (Level.ofBit b))]) s.trace := by
  have ht : (s.delay 35).trace = s.trace ++ [.delay 35, .delayDone] := by rw [delay_eq]
  rw [sampleLevel, Config.sampleDelay]
  cases ha : (s.delay 35).lineAnswer with
  | level l =>
    have hl : Level.ofBit l.bit = l := by cases l <;> rfl
    exact ⟨[.delay 35, .delayDone, .read (.level l)], by simp [ha, ht], ⟨le_rfl, by simp⟩, by simp only [hl]⟩
  | err c =>
    have hdelay : ErrorFree 1 [.delay 35, .delayDone] := ⟨le_rfl, by simp⟩
    exact (failEntry_lineError_failsAfter (by simp [ha, ht])).before hdelay

/-- A bit read fails in one of its three parts, or adds the events of a bit within the budget (rules R84 and R87). -/
theorem sampleBit_tells (s : State) :
    (sampleBit Config.hw s).Tells 1 (fun _ fs => ∃ x : BitScript, x.inBudget = true ∧ fs = x.events) s.trace := by
  have hparts := (poll_tells .high s).andThen fun _ t =>
    (delayedSample_tells t).andThen fun b u => (poll_tells .low u).andThen fun _ w =>
      (show (Run.ok b w).Tells 0 (fun _ fs => fs = []) w.trace from ⟨[], (List.append_nil _).symm, errorFree_nil, rfl⟩)
  refine hparts.imp fun _ fs hfs => ?_
  obtain ⟨-, _, ⟨rise, hr, hr', rfl⟩, _, rfl, b, _, rfl, _, rfl, -, _, ⟨fall, hf, hf', rfl⟩, _, rfl, rfl⟩ := hfs
  exact ⟨⟨rise, b, fall⟩, by simp [BitScript.inBudget, hr, hr', hf, hf'], by simp [BitScript.events]⟩

/-! ### How a byte read fails -/

/-- With `left` bits to read from bit `i` and after the events `es`, the byte has failed at the bit that `BIT_IDX` names, the bits
before it read in full. -/
def FailsAtBit (left : Nat) (i : BitVec 3) (es : List Event) (t : State) : Prop :=
  ∃ xs : List BitScript, xs.length < left ∧ xs.all BitScript.inBudget = true ∧
    t.bitIdx = some (i + BitVec.ofNat 3 xs.length) ∧ FailsAfter 1 (es ++ (xs.map BitScript.events).flatten) t

theorem FailsAtBit.after_bit {left : Nat} {i : BitVec 3} {es : List Event} {t : State} {x : BitScript} (hx : x.inBudget = true)
    (h : FailsAtBit left (i + 1) (es ++ x.events) t) : FailsAtBit (left + 1) i es t := by
  obtain ⟨xs, hlen, hxs, hi, ht⟩ := h
  refine ⟨x :: xs, Nat.succ_lt_succ hlen, by simp [hx, hxs], ?_, by simpa using ht⟩
  rw [hi, List.length_cons, Nat.add_comm xs.length, BitVec.ofNat_add, ← BitVec.add_assoc]
  rfl

/-- Each bit fails the byte, or is read in full before the rest (rule R90). -/
theorem readBits_failsAtBit {left : Nat} {i : BitVec 3} {sh : Byte} {s t : State} (hu : s.susp = false)
    (h : readBits Config.hw left i sh s = .failed t) : FailsAtBit left i s.trace t := by
  induction left generalizing i sh s with
  | zero => cases h
  | succ left ih =>
    have hkeeps := (sampleBit_subStep Config.hw { s with bitIdx := some i } hu).keeps
    have hends := sampleBit_tells { s with bitIdx := some i }
    rw [readBits] at h
    cases hr : sampleBit Config.hw { s with bitIdx := some i } with
    | failed u =>
      rw [hr] at h hkeeps hends
      obtain rfl : u = t := Run.failed.inj h
      have hfails : FailsAfter 1 s.trace u := hends
      exact ⟨[], left.succ_pos, rfl, hkeeps.bitIdx.trans (by simp), by simpa using hfails⟩
    | ok b u =>
      rw [hr] at h hkeeps hends
      obtain ⟨_, ht, -, x, hx, rfl⟩ := hends
      have hrest := ih (s := { u with shift := some (foldBit sh b) }) hkeeps.susp h
      rw [show State.trace { u with shift := some (foldBit sh b) } = s.trace ++ x.events from ht] at hrest
      exact hrest.after_bit hx

/-- Settles O28: a byte read that ends with `BUSY = 0` has failed at one of its bits, before it would write the frame buffer. -/
theorem readByteFailsFast : Obligations.ReadByteFailsFast := by
  intro slot s t hb hu h4 h hoff
  have hs : s.blockEnabled = true := blockEnabled_iff.mpr ⟨hb, hu⟩
  obtain rfl : (readByte Config.hw slot s).state = t := Host.Outcome.next.inj ((exec_readByte h4 hs).symm.trans h)
  have hset := readByte_settles Config.hw slot hs
  have hw := readByte_writesAtEnd Config.hw slot s hu
  obtain ⟨v, u, -, hbyte⟩ | ⟨u, hbits, hbyte⟩ := readByte_cases Config.hw slot s
  · rw [hbyte] at hset hoff
    cases (blockEnabled_iff.mp hset).1.symm.trans hoff
  · rw [hbyte] at hw ⊢
    obtain ⟨xs, hlen, hxs, hi, es, last, ht, hes, hlast⟩ := readBits_failsAtBit (s := { s with shift := some 0 }) hu hbits
    have hlen' : (BitVec.ofNat 3 xs.length).toNat = xs.length := Nat.mod_eq_of_lt hlen
    exact ⟨hw, BitVec.ofNat 3 xs.length, xs, es, last, by simpa using hi, hlen'.symm, hxs, ht, hes.delays, hes.noError, hlast⟩

end Sys2Proof.Machine
end

section
/-! PROOF. The FrameReader: the checksum law of `VALIDATE`, the acceptance of a read and its `ABORT`, the moves of `PHASE` that a turn
of the hardware makes, and the result of a whole read of a frame. -/

namespace Sys2Proof.Machine

/-! ### The wrapping sum (rules R11 and R93) -/

theorem payload_sum_eq_iff {d : Payload} {c : Byte} :
    d.sum = c ↔ (d.b0.toNat + d.b1.toNat + d.b2.toNat + d.b3.toNat) % 256 = c.toNat := by
  have hsum : d.sum.toNat = (d.b0.toNat + d.b1.toNat + d.b2.toNat + d.b3.toNat) % 256 := by
    simp only [Payload.sum, wsum, BitVec.toNat_add]
    omega
  rw [← BitVec.toNat_inj, hsum]

/-- The flip of a bit changes its byte: it changes that bit. -/
theorem xor_bit_ne (b : Byte) {i : Nat} (hi : i < 8) : b ^^^ (1#8 <<< i) ≠ b := by
  intro h
  have hbit := congrArg (BitVec.getLsbD · i) h
  simp [hi] at hbit

/-- The flip of bit 7 adds 128: where the bit is 1, the carry leaves the byte. -/
theorem xor_bit7_eq_add (b : Byte) : b ^^^ (1#8 <<< 7) = b + 128 := by
  revert b
  decide

/-- The sum with one byte changed is another sum: each summand can be cancelled. -/
theorem flipBit_sum_ne {d : Payload} {c : Byte} (hc : d.sum = c) {k i : Nat} (hk : k < 5) (hi : i < 8) :
    (flipBit k i d c).1.sum ≠ (flipBit k i d c).2 := by
  subst hc
  match k, hk with
  | 0, _ => simpa [flipBit, Payload.sum, wsum] using xor_bit_ne d.b0 hi
  | 1, _ => simpa [flipBit, Payload.sum, wsum] using xor_bit_ne d.b1 hi
  | 2, _ => simpa [flipBit, Payload.sum, wsum] using xor_bit_ne d.b2 hi
  | 3, _ => simpa [flipBit, Payload.sum, wsum] using xor_bit_ne d.b3 hi
  | 4, _ => exact (xor_bit_ne d.sum hi).symm

/-- Bit 7 flipped in two bytes adds 128 twice, which is nothing mod 256. -/
theorem sum_of_two_bit7_flips (d : Payload) (c : Byte) : (flipBit 1 7 (flipBit 0 7 d c).1 c).1.sum = d.sum := by
  simp only [flipBit, Payload.sum, wsum, xor_bit7_eq_add]
  bv_omega

/-- Settles O32: one flip changes one summand, or the checksum alone; two flips of bit 7 add 256. -/
theorem checksumCatchesEveryOneBitFlip : Obligations.ChecksumCatchesEveryOneBitFlip :=
  fun d c hc => ⟨fun _ hk _ hi => flipBit_sum_ne hc hk hi, (sum_of_two_bit7_flips d c).trans hc⟩

/-! ### `VALIDATE` (rule R92) -/

/-- `VALIDATE` of a full frame buffer writes the result, by the checksum. -/
theorem validate_of_holding {d : Payload} {c : Byte} {s : State} (hf : s.frame = Frame.holding d c) :
    validate s = .next (if d.sum = c then s.okEntry d else s.failEntry .checksumMismatch) := by
  rw [validate, hf, apply_ite Host.Outcome.next]
  rfl

/-- Settles O30: the two entries of a result, chosen by the sum as a number. -/
theorem validateChecksTheWrappingSum : Obligations.ValidateChecksTheWrappingSum := by
  intro s d c hb hu hf
  have he : exec .validate s = validate s := whenEnabled_of_enabled (blockEnabled_iff.mpr ⟨hb, hu⟩) validate
  rw [he, validate_of_holding hf, apply_ite Host.Outcome.next]
  exact if_congr payload_sum_eq_iff rfl rfl

/-! ### `READ_FRAME` and `ABORT` at the host port (rules R91 and R96) -/

theorem exec_readFrame_of_busy {s : State} (h : s.busy = true) : exec .readFrame s = .next s := if_pos h

theorem exec_abort_of_busy {s : State} (h : s.busy = true) : exec .abort s = .next s.abortRead := if_pos h

theorem exec_abort_of_not_busy {s : State} (h : s.busy = false) : exec .abort s = .next s :=
  if_neg (Bool.eq_false_iff.mp h)

/-- The block's turn is nothing while `BUSY = 0` (rule R98). -/
theorem blockTurn_of_not_busy (P : Config.Params) {s : State} (h : s.busy = false) : blockTurn P s = .next s :=
  if_neg (Bool.eq_false_iff.mp (blockEnabled_eq_false_iff.mpr (.inl h)))

/-- Settles O33: `READ_FRAME` is the acceptance while `BUSY = 0`, and nothing otherwise. -/
theorem readFrameIsAcceptedWhenNotBusy : Obligations.ReadFrameIsAcceptedWhenNotBusy :=
  fun _ => ⟨exec_readFrame_of_not_busy, exec_readFrame_of_busy⟩

/-- Settles O34: an aborted read leaves the result registers as they were, clear by the invariant, with `BUSY = 0` and `SUSP = 0`. -/
theorem abortEndsTheReadInProgress : Obligations.AbortEndsTheReadInProgress := by
  refine ⟨rfl, fun s => ⟨exec_abort_of_busy, exec_abort_of_not_busy⟩, fun s t hs hb h => ?_⟩
  obtain rfl : s.abortRead = t := Host.Outcome.next.inj ((exec_abort_of_busy hb).symm.trans h)
  obtain ⟨hvalid, hstatus, hcause, hdata⟩ := resultClear_of_busy hs hb
  have hidle : s.abortRead.busy = false := rfl
  exact ⟨hvalid, hstatus, hcause, hdata, blockTurn_of_not_busy _ hidle, rfl, exec_readFrame_of_not_busy hidle⟩

/-! ### The moves of `PHASE` (rule R97) -/

theorem mayGo_idle {p : Phase} (h : p ≠ .idle) : p.mayGo .idle = true := by
  cases p with
  | idle => exact absurd rfl h
  | startPulse | awaitAckHigh | awaitAckLow | readByte | validate | done | failed => rfl

theorem mayGo_startPulse {p : Phase} (h : p.busy = false) : p.mayGo .startPulse = true := by
  cases p with
  | idle | done | failed => rfl
  | startPulse | awaitAckHigh | awaitAckLow | readByte | validate => cases h

/-- The phase is kept, or moves on within the read or to its end: a move of the block's. -/
inductive Phase.MovesOn (p q : Phase) : Prop where
  | stays (h : q = p)
  | advances (h : p.mayGo q = true) (hs : q ≠ .startPulse) (hi : q ≠ .idle)

/-- A move between two named phases, for which the rule is a closed fact. -/
theorem Phase.MovesOn.to {p p' q : Phase} (q' : Phase) (hp : p = p') (hq : q = q')
    (h : p'.mayGo q' = true ∧ q' ≠ .startPulse ∧ q' ≠ .idle) : p.MovesOn q := by
  subst hp hq
  obtain ⟨hgo, hs, hi⟩ := h
  exact .advances hgo hs hi

/-- A step of a wait keeps `PHASE`, fails, or runs what follows the wait (rule R100). -/
theorem PollStepTo.phase_cases {P : Config.Params} {T : Level} {K : State → Out} {s t : State} (h : PollStepTo P T K s t) :
    t.phase = s.phase ∨ t.phase = .failed ∨ ∃ cnt, K (s.check cnt) = .next t := by
  cases h with
  | delay | miss => exact .inl rfl
  | timeout | error | lastMiss => exact .inr (.inl rfl)
  | found cnt _ _ _ _ _ hk => exact .inr (.inr ⟨cnt, hk⟩)

/-- So `PHASE` moves as it does in what follows, in a phase that may fail. -/
theorem PollStepTo.movesOn {P : Config.Params} {T : Level} {K : State → Out} {s t : State} (h : PollStepTo P T K s t)
    (hf : s.phase.mayGo .failed = true) (hK : ∀ u, u.phase = s.phase → K u = .next t → s.phase.MovesOn t.phase) :
    s.phase.MovesOn t.phase := by
  obtain hp | hp | ⟨cnt, hk⟩ := h.phase_cases
  · exact .stays hp
  · exact .to .failed rfl hp ⟨hf, by decide, by decide⟩
  · exact hK _ (State.check_phase cnt s) hk

/-- The fold keeps `PHASE`, or goes on to VALIDATE (rule R101). -/
theorem FoldNextTo.phase_cases {s t : State} (h : FoldNextTo s t) : t.phase = s.phase ∨ t.phase = .validate := by
  cases h with
  | nextBit | nextByte => exact .inl rfl
  | lastByte => exact .inr rfl

theorem ValidateTo.phase_cases {s t : State} (h : ValidateTo s t) : t.phase = .done ∨ t.phase = .failed := by
  cases h with
  | accepts => exact .inl rfl
  | rejects => exact .inr rfl

/-- The block's step moves `PHASE` on (rule R99). -/
theorem BlockStepTo.movesOn {P : Config.Params} {s t : State} (h : BlockStepTo P s t) : s.phase.MovesOn t.phase := by
  cases h with
  | waits | drives | midDelay | sample => exact .stays rfl
  | startDelay hp => exact .to .awaitAckHigh hp rfl (by decide)
  | sampleError _ hp => exact .to .failed hp rfl (by decide)
  | ackHigh _ hp _ h =>
    refine h.movesOn (by rw [hp]; rfl) fun u _ hk => ?_
    cases hk
    exact .to .awaitAckLow hp rfl (by decide)
  | ackLow _ hp _ h =>
    refine h.movesOn (by rw [hp]; rfl) fun u _ hk => ?_
    cases hk
    exact .to .readByte hp rfl (by decide)
  | rise _ hp _ h =>
    refine h.movesOn (by rw [hp]; rfl) fun u hu hk => ?_
    cases hk
    exact .stays hu
  | fall _ hp _ h =>
    refine h.movesOn (by rw [hp]; rfl) fun u hu hk => ?_
    obtain ht | ht := (foldNext_next hk).phase_cases
    · exact .stays (ht.trans hu)
    · exact .to .validate hp ht (by decide)
  | validates _ hp _ h =>
    obtain ht | ht := h.phase_cases
    · exact .to .done hp ht (by decide)
    · exact .to .failed hp ht (by decide)

/-- What an input does to `PHASE`: the block moves it on, a read starts, a read is aborted, or the block is reset. -/
inductive PhaseMove (i : Input) (s t : State) : Prop where
  | movesOn (h : s.phase.MovesOn t.phase)
  | accepted (hi : i = moveTurn (.host 0x8000)) (hb : s.busy = false) (ht : t = s.accept)
  | aborted (hi : i = moveTurn (.host 0x9000)) (hb : s.busy = true) (ht : t.phase = .idle)
  | reset (m : Move) (hi : i = .turn { reset := true, move := m }) (ht : t.phase = .idle)

theorem timeTurn_phase (s : State) : s.timeTurn.phase = s.phase := by
  unfold State.timeTurn
  split <;> rfl

theorem RunInputTo.phaseMove {u : Turn} {s t : State} (h : RunInputTo (.turn u) s t) : PhaseMove (.turn u) s t := by
  cases h with
  | reset m hi => exact .reset m hi rfl
  | block _ _ _ h => exact .movesOn h.movesOn
  | blockWaits | lineUser | ignored => exact .movesOn (.stays rfl)
  | timeSource => exact .movesOn (.stays (timeTurn_phase s))
  | accept w hi hw hb =>
    obtain ⟨-, rfl⟩ := decode_eq_ok_iff.mp hw
    exact .accepted hi hb rfl
  | abort w hi hw hb =>
    obtain ⟨-, rfl⟩ := decode_eq_ok_iff.mp hw
    exact .aborted hi hb rfl
  | harness _ _ _ hi => cases hi

section PhaseMove

variable {i : Input} {s t : State} (h : PhaseMove i s t)

include h

theorem PhaseMove.mayGo : t.phase = s.phase ∨ s.phase.mayGo t.phase = true := by
  have hidle (ht : t.phase = .idle) : t.phase = s.phase ∨ s.phase.mayGo t.phase = true := by
    rw [ht]
    exact (eq_or_ne .idle s.phase).imp_right fun hne => mayGo_idle hne.symm
  cases h with
  | movesOn h =>
    cases h with
    | stays h => exact .inl h
    | advances h => exact .inr h
  | accepted _ hb ht =>
    rw [ht]
    exact .inr (mayGo_startPulse hb)
  | aborted _ _ ht => exact hidle ht
  | reset _ _ ht => exact hidle ht

/-- A read starts by the host's 0x8000 only. -/
theorem PhaseMove.accepted_of_startPulse (ht : t.phase = .startPulse) (hs : s.phase ≠ .startPulse) :
    s.busy = false ∧ i = moveTurn (.host 0x8000) ∧ t = s.accept := by
  cases h with
  | movesOn h =>
    cases h with
    | stays h => exact absurd (h.symm.trans ht) hs
    | advances _ hne => exact absurd ht hne
  | accepted hi hb ha => exact ⟨hb, hi, ha⟩
  | aborted _ _ hidle => cases hidle.symm.trans ht
  | reset _ _ hidle => cases hidle.symm.trans ht

/-- IDLE is entered by a reset or the host's 0x9000 only. -/
theorem PhaseMove.reset_or_aborted_of_idle (ht : t.phase = .idle) (hs : s.phase ≠ .idle) :
    (∃ m, i = .turn { reset := true, move := m }) ∨ (s.busy = true ∧ i = moveTurn (.host 0x9000)) := by
  cases h with
  | movesOn h =>
    cases h with
    | stays h => exact absurd (h.symm.trans ht) hs
    | advances _ _ hne => exact absurd ht hne
  | accepted _ _ ha =>
    rw [ha] at ht
    cases ht
  | aborted hi hb => exact .inr ⟨hb, hi⟩
  | reset m hi => exact .inl ⟨m, hi⟩

end PhaseMove

/-- Settles O41: the step takes its input, a turn, and the four kinds of move that a turn makes are those of the rule. -/
theorem phasesMoveOnlyAsTheSpecSays : Obligations.PhasesMoveOnlyAsTheSpecSays := by
  intro s t hh h
  obtain ⟨u, hu⟩ := nextInput_eq_turn hh
  have hm : PhaseMove s.nextInput s.takeInput t := by
    rw [hu]
    exact (hu ▸ step_next h).phaseMove
  exact ⟨hm.mayGo, hm.accepted_of_startPulse, hm.reset_or_aborted_of_idle⟩

/-! ### The result of a whole read (rules R91 to R94) -/

/-- The read has ended with `l` to come on the line, and its result is that of a frame with the payload `d` and the checksum `c`. -/
structure EndsWithFrame (d : Payload) (c : Byte) (l : List LineAnswer) (t : State) : Prop where
  busy : t.busy = false
  line : t.line = l
  result : t.result = some (if d.sum = c then .ok d else .error .checksumMismatch)
  outData : t.outData = if d.sum = c then d else Payload.zero

/-- `VALIDATE` ends the read with the result of the frame that the frame buffer holds. -/
theorem validate_endsWithFrame {d : Payload} {c : Byte} {s : State} (hf : s.frame = Frame.holding d c) :
    ∃ t, validate s = .next t ∧ EndsWithFrame d c s.line t := by
  refine ⟨_, validate_of_holding hf, ?_⟩
  by_cases hc : d.sum = c
  · rw [if_pos hc]
    exact ⟨rfl, rfl, by rw [if_pos hc]; rfl, by rw [if_pos hc]; rfl⟩
  · rw [if_neg hc]
    exact ⟨rfl, rfl, by rw [if_neg hc]; rfl, by rw [if_neg hc]; rfl⟩

/-- A read of a frame ends with that frame's result. -/
theorem leads_to_result {f : FrameScript} {d : Payload} {c : Byte} {l : List LineAnswer} {s : State}
    (hin : f.inBudget = true) (hf : f.carries d c) (hl : s.line = f.answers ++ l) :
    Leads s.accept (EndsWithFrame d c l) := by
  refine (leads_to_validate hin hf hl).trans fun t ht => .step (busy_of_phase ht.phase) fun tr => ?_
  obtain ⟨u, hu, hends⟩ := validate_endsWithFrame (s := t.resumed tr) ht.frame
  rw [blockStep_of_validate (s := t.resumed tr) _ ht.phase ht.sub]
  exact ⟨u, hu, .here (ht.line ▸ hends)⟩

/-- Settles O54: the schedule runs the block's steps with every delay completed, and these lead to the frame's result. -/
theorem readReturnsExactlyTheFrameOnTheLine : Obligations.ReadReturnsExactlyTheFrameOnTheLine := by
  intro s f d c rest hs hin hf hl
  obtain ⟨n, t, ht, hends⟩ := leads_to_result hin hf hl
  exact ⟨n, t.undisturbed [], run_readSchedule hs ht, hends.busy, hends.line, hends.result, hends.outData⟩

end Sys2Proof.Machine
end

section
/-! PROOF. The sequencer's step at each position: the turns that run it, one step of a wait, the fold, and the operations that need an
enabled block. -/

namespace Sys2Proof.Machine

/-! ### The turns of the block and the time source (rules R23 and R98) -/

/-- A step whose next input is a listed move, without reset and with the line not shared, runs that move. -/
theorem step_of_moveTurn {m : Move} {s : State} {rest : List Input} (hin : s.inputs = moveTurn m :: rest)
    (hl : s.lineConflict = false) : step s = runMove m { s with inputs := rest } := by
  have hn : s.nextInput = moveTurn m := by simp [State.nextInput, hin]
  have ht : s.takeInput = { s with inputs := rest } := by simp [State.takeInput, hin]
  rw [step, hn, ht]
  exact if_neg (Bool.eq_false_iff.mp hl)

/-- Settles O9: the move is the block's turn, whose step needs the block enabled. -/
theorem blockTurnRunsTheBlockStep : Obligations.BlockTurnRunsTheBlockStep := by
  intro s rest hin hl
  rw [step_of_moveTurn hin hl, runMove, blockTurn]
  exact if_congr blockEnabled_iff rfl rfl

/-- Settles O10: the move is the time source's turn, by whether a delay is outstanding. -/
theorem timeSourceCompletesTheDelay : Obligations.TimeSourceCompletesTheDelay := by
  intro s rest hin hl
  rw [step_of_moveTurn hin hl, runMove, State.timeTurn, apply_ite Host.Outcome.next]
  rfl

/-! ### Operations turned away or refused (rules R67 and R98) -/

theorem exec_of_not_wf {i : Instr} (h : i.wf = false) (s : State) : exec i s = .refused .reservedOperand := by
  cases i with
  | delay n =>
    have hn : n = 0 := by simpa [Instr.wf] using h
    exact if_pos hn
  | readByte slot =>
    have h4 : 4 < slot := by simpa [Instr.wf] using h
    exact if_pos h4
  | driveHigh | readLevel | pollLow | pollHigh | sampleBit | validate | readFrame | abort => cases h

/-- Settles O36: the block is not enabled, so the operation is turned away; a reserved operand is refused before that is looked at. -/
theorem internalOperationsNeedAnEnabledBlock : Obligations.InternalOperationsNeedAnEnabledBlock :=
  ⟨fun _ _ hw hi hs => exec_of_not_enabled hw hi (blockEnabled_eq_false_iff.mpr hs), fun _ s h => exec_of_not_wf h s⟩

/-! ### START_PULSE (rule R99) -/

theorem blockStep_of_drive (P : Config.Params) {s : State} (hp : s.phase = .startPulse) (h0 : s.sub = 0) :
    blockStep P s = .next { s.lineDriveHigh with sub := 1 } := by
  simp [blockStep, hp, startPulseStep, h0]

theorem blockStep_of_startDelay (P : Config.Params) {s : State} (hp : s.phase = .startPulse) (h1 : s.sub = 1) :
    blockStep P s = .next (({ s with phase := .awaitAckHigh, sub := 0 }).waitReset.issueDelay Config.startDelay) := by
  simp [blockStep, hp, startPulseStep, h1]

/-- Settles O37: the drive with its answer used up, then the start delay, issued with the wait's counters at 0. -/
theorem startPulseDrivesOnceThenWaits : Obligations.StartPulseDrivesOnceThenWaits := by
  refine fun s hp => ⟨fun h0 => ?_, fun h1 => blockStep_of_startDelay _ hp h1⟩
  rw [blockStep_of_drive _ hp h0, lineDriveHigh_eq]

/-! ### One step of a wait (rule R100) -/

/-- A check, with the count and the line's draw as numbers. -/
theorem check_eq (cnt : BitVec 7) (s : State) :
    s.check cnt = { s with
      pollCnt := some (BitVec.ofNat 7 (cnt.toNat + 1)), line := s.line.tail,
      draws := if s.line = [] then s.draws + 1 else s.draws, trace := s.trace ++ [.read s.lineAnswer] } := by
  rw [State.check, lineRead_of_answer rfl, BitVec.ofNat_add, BitVec.ofNat_toNat, BitVec.setWidth_eq]
  rfl

/-- Settles O38: with the count within the budget, the rows of R100 in their order; the check is the one of R78. -/
theorem waitStepIsPollStep : Obligations.WaitStepIsPollStep := by
  intro P T K s n p _ hn hp hB
  rw [pollStep, hn, hp, withReg_some, withReg_some, if_neg hB.not_gt, check_eq, ← hp]
  rfl

/-! ### The fold (rule R101) -/

/-- Settles O40: `v` is the fold; the branches of `fold_next` are those of the rule, its comparisons read as numbers. -/
theorem foldNextMovesToTheNextBitByteOrValidation : Obligations.FoldNextMovesToTheNextBitByteOrValidation := by
  refine ⟨fun s sh b i j hsh hb hi hj hj4 => ⟨foldBit sh b, ?_, ?_⟩, fun s hp h3 => blockStep_of_fall _ hp h3⟩
  · rw [foldBit_toNat]
    have := b.isLt
    omega
  · rw [foldNext, hsh, hb, hi, hj]
    simp only [withReg_some, if_neg (BitVec.not_lt.mpr hj4), BitVec.ofNat_add, BitVec.ofNat_toNat, BitVec.setWidth_eq]
    rfl

/-! ### The positions after START_PULSE (rule R99) -/

theorem blockStep_of_sample_err (P : Config.Params) {s : State} {c : LineCause} (hp : s.phase = .readByte) (h2 : s.sub = 2)
    (ha : s.lineAnswer = .err c) : blockStep P s = .next (s.lineRead.failEntry (.lineError c)) := by
  simp [blockStep, hp, readByteStep, h2, sampleStep, sampleLevel, ha]

theorem blockStep_of_not_busy (P : Config.Params) {s : State} (hb : s.busy = false) : blockStep P s = .next s := by
  rw [blockStep]
  cases hp : s.phase with
  | idle | done | failed => rfl
  | startPulse | awaitAckHigh | awaitAckLow | readByte | validate => cases (busy_of_phase hp).symm.trans hb

/-- A pair of `PHASE` and `SUB` that the table of R99 does not list. -/
theorem blockStep_of_unlisted (P : Config.Params) {s : State}
    (h : s.phase = .startPulse ∧ 2 ≤ s.sub ∨
      (s.phase = .awaitAckHigh ∨ s.phase = .awaitAckLow ∨ s.phase = .validate) ∧ s.sub ≠ 0) :
    blockStep P s = .fault .position := by
  rcases h with ⟨hp, h2⟩ | ⟨hp | hp | hp, h0⟩
  · rw [blockStep, hp]
    exact (if_neg (by bv_omega)).trans (if_neg (by bv_omega))
  all_goals
    rw [blockStep, hp]
    exact if_neg h0

/-- Settles O60, position by position. -/
theorem blockStepAtEachLaterPosition : Obligations.BlockStepAtEachLaterPosition := by
  refine fun s => ⟨blockStep_of_awaitAckHigh _, blockStep_of_awaitAckLow _, blockStep_of_rise _, blockStep_of_midDelay _,
    fun hp h2 l ha => ?_, fun hp h2 c ha => ?_, fun hp h0 d c hf => ?_, fun hp => ?_, blockStep_of_unlisted _⟩
  · rw [blockStep_of_sample _ hp h2 ha, lineRead_of_answer ha]
    cases l <;> rfl
  · rw [blockStep_of_sample_err _ hp h2 ha, lineRead_of_answer ha]
    simp [State.failEntry, FailKind.code, FailKind.cause]
  · rw [blockStep_of_validate _ hp h0, validate_of_holding hf, apply_ite Host.Outcome.next, State.okEntry, State.failEntry, h0]
    exact if_congr payload_sum_eq_iff rfl rfl
  · have hb : s.busy = false := by
      rcases hp with hp | hp | hp <;> exact busy_of_phase hp
    exact blockStep_of_not_busy _ hb

end Sys2Proof.Machine
end

section
/-! PROOF. The step machine runs the sequential read: at each position the block's steps, with every delay completed, end in the outcome
of what is left of the sequential read, within the steps counted in R104. The sequential read does not move `PHASE` and `SUB`, so its
state is set beside the machine's by placing it at the machine's position. -/

namespace Sys2Proof.Machine

/-! ### The end of a read -/

/-- The read has ended, with no delay outstanding and a result for the host (rules R24 and R113). -/
structure ReadOver (t : State) : Prop where
  busy : t.busy = false
  susp : t.susp = false
  resultValid : t.resultValid = true
  result : t.result.isSome = true

theorem failEntry_readOver (k : FailKind) {s : State} (hu : s.susp = false) : ReadOver (s.failEntry k) :=
  ⟨rfl, hu, rfl, by cases k <;> rfl⟩

theorem okEntry_readOver (d : Payload) {s : State} (hu : s.susp = false) : ReadOver (s.okEntry d) := ⟨rfl, hu, rfl, rfl⟩

/-! ### Steps up to the end of a read -/

/-- From `s` the block's steps, with every delay completed, end the read within `n` steps, in the outcome `o`. -/
def EndsWithin (P : Config.Params) (n : Nat) (s : State) (o : Out) : Prop :=
  ∃ m t, m ≤ n ∧ blockSteps P m s = .next t ∧ o = .next t ∧ ReadOver t

section EndsWithin

variable {P : Config.Params} {m n : Nat} {s t : State} {o : Out}

theorem EndsWithin.over (h : ReadOver t) : EndsWithin P n t (.next t) := ⟨0, t, n.zero_le, rfl, rfl, h⟩

theorem EndsWithin.mono (h : EndsWithin P m s o) (hmn : m ≤ n) : EndsWithin P n s o := by
  obtain ⟨k, t, hk, ht⟩ := h
  exact ⟨k, t, hk.trans hmn, ht⟩

/-- A step of an enabled block, before the rest. -/
theorem EndsWithin.step (hb : s.busy = true) (hu : s.susp = false) (hs : blockStep P s = .next t) (h : EndsWithin P n t o) :
    EndsWithin P (n + 1) s o := by
  obtain ⟨m, u, hm, hsteps, ho⟩ := h
  have htime : s.timeTurn = s := by rw [State.timeTurn, hu]; rfl
  refine ⟨m + 1, u, Nat.succ_le_succ hm, ?_, ho⟩
  rw [blockSteps, blockStepDelaysComplete, htime, blockTurn, if_pos (blockEnabled_iff.mpr ⟨hb, hu⟩), hs]
  exact hsteps

/-- The time source completes a delay that the block has issued, before the block's next step (rule R98). -/
theorem EndsWithin.resume {d : Nat} (hb : s.busy = true) (h : EndsWithin P n (s.delay d) o) :
    EndsWithin P n (s.issueDelay d) o := by
  obtain ⟨m, u, hm, hsteps, ho, hover⟩ := h
  cases m with
  | zero =>
    obtain rfl : s.delay d = u := Host.Outcome.next.inj hsteps
    cases hb.symm.trans hover.busy
  | succ m => exact ⟨m + 1, u, hm, hsteps, ho, hover⟩

end EndsWithin

/-! ### The sequential read's state, placed at a position of the machine -/

/-- The state with the sequencer at `p` and `u` (rule R21). -/
def State.atPosition (p : Phase) (u : BitVec 2) (s : State) : State := { s with phase := p, sub := u }

/-! ### A wait (rules R78 and R100) -/

theorem pollStep_err {P : Config.Params} {T : Level} {K : State → Out} {s : State} {cnt : BitVec 7} {c : LineCause}
    (hc : s.pollCnt = some cnt) (hd : s.pdly = some false) (hb : cnt.toNat < P.budget) (ha : s.lineAnswer = .err c) :
    pollStep P T K s = .next ((s.check cnt).failEntry (.lineError c)) := by
  simp [pollStep, hc, hd, ha, hb.ne, hb.le.not_gt]

theorem pollStep_timeout {P : Config.Params} {T : Level} {K : State → Out} {s : State} {cnt : BitVec 7}
    (hc : s.pollCnt = some cnt) (hd : s.pdly = some false) (hb : cnt.toNat = P.budget) :
    pollStep P T K s = .next (s.failEntry .timeout) := by
  simp [pollStep, hc, hd, hb]

theorem pollStep_last_miss {P : Config.Params} {T : Level} {K : State → Out} {s : State} {cnt : BitVec 7}
    (hc : s.pollCnt = some cnt) (hd : s.pdly = some false) (hb : cnt.toNat + 1 = P.budget)
    (ha : s.lineAnswer = .level T.other) (hP : P.delayAfterLast = false) :
    pollStep P T K s = .next ((s.check cnt).failEntry .timeout) := by
  simp [pollStep, hc, hd, ha, ← hb, other_ne, hP]

/-- A miss that a delay follows: it is not the last check, or the last check has its delay too. -/
theorem pollStep_miss_before_delay {P : Config.Params} {T : Level} {K : State → Out} {s : State} {cnt : BitVec 7}
    (hc : s.pollCnt = some cnt) (hd : s.pdly = some false) (hb : cnt.toNat < P.budget)
    (ha : s.lineAnswer = .level T.other) (hP : ¬ (cnt.toNat + 1 = P.budget ∧ P.delayAfterLast = false)) :
    pollStep P T K s = .next { s.check cnt with pdly := some true } := by
  simp only [pollStep, hc, hd, ha, withReg_some, if_neg hb.le.not_gt, if_neg (hb.ne ∘ And.left), if_neg (other_ne T), if_neg hP]
  rfl

theorem budget_le {P : Config.Params} (h : P.wf = true) : P.budget ≤ 127 := by
  simp only [Config.Params.wf, Bool.and_eq_true, decide_eq_true_eq] at h
  exact h.2

/-- At the position `p`, `u` the block waits for `T`, with `K` to follow (rules R99 and R100). -/
structure WaitsAt (P : Config.Params) (T : Level) (K : State → Out) (p : Phase) (u : BitVec 2) : Prop where
  busy : p.busy = true
  blockStep : ∀ s : State, blockStep P (s.atPosition p u) = pollStep P T K (s.atPosition p u)

theorem waitsAt_awaitAckHigh (P : Config.Params) : WaitsAt P .high afterAckHigh .awaitAckHigh 0 :=
  ⟨rfl, fun _ => blockStep_of_awaitAckHigh P rfl rfl⟩

theorem waitsAt_awaitAckLow (P : Config.Params) : WaitsAt P .low afterAckLow .awaitAckLow 0 :=
  ⟨rfl, fun _ => blockStep_of_awaitAckLow P rfl rfl⟩

theorem waitsAt_rise (P : Config.Params) : WaitsAt P .high afterRise .readByte 0 :=
  ⟨rfl, fun _ => blockStep_of_rise P rfl rfl⟩

theorem waitsAt_fall (P : Config.Params) : WaitsAt P .low foldNext .readByte 3 :=
  ⟨rfl, fun _ => blockStep_of_fall P rfl rfl⟩

section Wait

variable {P : Config.Params} {T : Level} {K : State → Out} {p : Phase} {u : BitVec 2} {s : State} {cnt : BitVec 7}
  {o : Out} {n : Nat}

/-- A miss and the delay owed for it, as two steps of the machine. -/
theorem EndsWithin.after_miss (hP : P.wf = true) (hw : WaitsAt P T K p u) (hu : s.susp = false)
    (hc : s.pollCnt = some cnt) (hd : s.pdly = some false) (hb : cnt.toNat < P.budget) (ha : s.lineAnswer = .level T.other)
    (hm : ¬ (cnt.toNat + 1 = P.budget ∧ P.delayAfterLast = false))
    (h : EndsWithin P n ((s.check cnt).owedDelay.atPosition p u) o) : EndsWithin P (n + 2) (s.atPosition p u) o := by
  have hcount : (cnt + 1).toNat ≤ P.budget := by
    have := budget_le hP
    bv_omega
  have hmiss := (hw.blockStep s).trans (pollStep_miss_before_delay hc hd hb ha hm)
  have howed := (hw.blockStep { s.check cnt with pdly := some true }).trans (pollStep_owed rfl rfl hcount)
  exact .step hw.busy hu hmiss (.step hw.busy hu howed (.resume hw.busy h))

/-- A line error at a check ends the read. -/
theorem endsWithin_of_err {left : Nat} {k : State → Out} {c : LineCause} (hw : WaitsAt P T K p u) (hu : s.susp = false)
    (hc : s.pollCnt = some cnt) (hd : s.pdly = some false) (hb : cnt.toNat < P.budget) (ha : s.lineAnswer = .err c) :
    EndsWithin P 1 (s.atPosition p u) ((pollLoop P T (left + 1) cnt s).thenOut fun _ => k) := by
  rw [pollLoop_of_err ha]
  exact .step hw.busy hu ((hw.blockStep s).trans (pollStep_err hc hd hb ha)) (.over (failEntry_readOver _ hu))

/-- A check that finds its level goes on as what follows the wait. -/
theorem endsWithin_of_target {left : Nat} {k : State → Out} (hw : WaitsAt P T K p u) (hu : s.susp = false)
    (hc : s.pollCnt = some cnt) (hd : s.pdly = some false) (hb : cnt.toNat < P.budget) (ha : s.lineAnswer = .level T)
    (hK : ∀ v, pollLoop P T (left + 1) cnt s = .ok () v →
      ∃ t, K (v.atPosition p u) = .next t ∧ EndsWithin P n t (k v)) :
    EndsWithin P (n + 1) (s.atPosition p u) ((pollLoop P T (left + 1) cnt s).thenOut fun _ => k) := by
  obtain ⟨t, ht, h⟩ := hK _ (pollLoop_of_target ha)
  have hfound : pollStep P T K (s.atPosition p u) = K ((s.check cnt).atPosition p u) := pollStep_found hc hd hb ha
  rw [pollLoop_of_target ha]
  exact .step hw.busy hu ((hw.blockStep s).trans (hfound.trans ht)) h

/-- The last check of the budget misses: the read times out, after its delay or before it. -/
theorem endsWithin_of_last_miss {k : State → Out} (hP : P.wf = true) (hw : WaitsAt P T K p u) (hu : s.susp = false)
    (hc : s.pollCnt = some cnt) (hd : s.pdly = some false) (hB : cnt.toNat + 1 = P.budget)
    (ha : s.lineAnswer = .level T.other) :
    EndsWithin P 3 (s.atPosition p u) ((pollLoop P T 1 cnt s).thenOut fun _ => k) := by
  have hb : cnt.toNat < P.budget := by omega
  rw [pollLoop_of_last_miss ha]
  cases hlast : P.delayAfterLast with
  | true =>
    have hcount : (cnt + 1).toNat = P.budget := by
      have := budget_le hP
      bv_omega
    have htimeout := (hw.blockStep (s.check cnt).owedDelay).trans (pollStep_timeout rfl rfl hcount)
    exact .after_miss hP hw hu hc hd hb ha (by simp [hlast]) (.step hw.busy rfl htimeout (.over (failEntry_readOver _ rfl)))
  | false =>
    have hmiss := (hw.blockStep s).trans (pollStep_last_miss hc hd hB ha hlast)
    exact .mono (.step hw.busy hu hmiss (.over (n := 0) (failEntry_readOver _ hu))) (by decide)

/-- The loop of a wait, from the machine's counters: each round ends the read, finds the level, or is a miss and its delay before the
next round. -/
theorem endsWithin_of_pollLoop {left : Nat} {k : State → Out} (hP : P.wf = true) (hw : WaitsAt P T K p u) (hu : s.susp = false)
    (hc : s.pollCnt = some cnt) (hd : s.pdly = some false) (hB : cnt.toNat + left + 1 = P.budget)
    (hK : ∀ v, pollLoop P T (left + 1) cnt s = .ok () v →
      ∃ t, K (v.atPosition p u) = .next t ∧ EndsWithin P n t (k v)) :
    EndsWithin P (n + 2 * left + 3) (s.atPosition p u) ((pollLoop P T (left + 1) cnt s).thenOut fun _ => k) := by
  induction left generalizing cnt s with
  | zero =>
    have hb : cnt.toNat < P.budget := by omega
    obtain ⟨c, ha⟩ | ha | ha := lineAnswer_cases T s
    · exact (endsWithin_of_err hw hu hc hd hb ha).mono (by omega)
    · exact (endsWithin_of_target hw hu hc hd hb ha hK).mono (by omega)
    · exact (endsWithin_of_last_miss hP hw hu hc hd hB ha).mono (by omega)
  | succ left ih =>
    have hb : cnt.toNat < P.budget := by omega
    obtain ⟨c, ha⟩ | ha | ha := lineAnswer_cases T s
    · exact (endsWithin_of_err hw hu hc hd hb ha).mono (by omega)
    · exact (endsWithin_of_target hw hu hc hd hb ha hK).mono (by omega)
    · have hcount : (cnt + 1).toNat + left + 1 = P.budget := by
        have := budget_le hP
        bv_omega
      rw [pollLoop_of_miss ha] at hK ⊢
      have hrest := ih (s := (s.check cnt).owedDelay) rfl rfl rfl hcount hK
      exact .after_miss hP hw hu hc hd hb ha (by omega) hrest

/-- A wait, from the counters at 0 (rules R78 and R99). -/
theorem endsWithin_of_poll {k : State → Out} (hP : P.wf = true) (hw : WaitsAt P T K p u) (hu : s.susp = false)
    (hK : ∀ v, poll P T s = .ok () v → ∃ t, K (v.atPosition p u) = .next t ∧ EndsWithin P n t (k v)) :
    EndsWithin P (n + (2 * P.budget + 1)) (s.waitReset.atPosition p u) ((poll P T s).thenOut fun _ => k) := by
  obtain ⟨left, hB⟩ := Nat.exists_eq_add_of_le' (one_le_budget hP)
  rw [poll, hB] at hK ⊢
  exact (endsWithin_of_pollLoop (s := s.waitReset) (cnt := 0) hP hw hu rfl rfl (by simp [hB]) hK).mono (by omega)

end Wait

/-! ### A bit (rules R84 and R99) -/

theorem andThen_eq_ok {α β : Type} {r : Run α} {f : α → State → Run β} {w : β} {t : State} :
    r.andThen f = .ok w t ↔ ∃ v u, r = .ok v u ∧ f v u = .ok w t := by
  cases r with
  | ok v u => simp
  | failed u => simp

theorem bit_of_sampleLevel_ok {s t : State} {b : BitVec 1} (h : sampleLevel s = .ok b t) : t.bit = some b := by
  rw [sampleLevel] at h
  cases ha : s.lineAnswer with
  | level l =>
    rw [ha] at h
    obtain ⟨rfl, rfl⟩ := Run.ok.inj h
    rfl
  | err c =>
    rw [ha] at h
    cases h

/-- A bit read that succeeds leaves the bit it returns in `BIT` (rule R84). -/
theorem bit_of_sampleBit_ok {P : Config.Params} {s t : State} {b : BitVec 1} (h : sampleBit P s = .ok b t) :
    t.bit = some b := by
  obtain ⟨_, v, -, h⟩ := andThen_eq_ok.mp h
  obtain ⟨b', w, hsample, h⟩ := andThen_eq_ok.mp h
  obtain ⟨_, x, hfall, h⟩ := andThen_eq_ok.mp h
  obtain ⟨rfl, rfl⟩ := Run.ok.inj h
  have hbit := poll_bit P .low w
  rw [hfall] at hbit
  exact hbit.trans (bit_of_sampleLevel_ok hsample)

section Bit

variable {P : Config.Params} {s : State} {n : Nat}

/-- The mid delay and the sample: one step each. -/
theorem endsWithin_of_sampleLevel {k : BitVec 1 → State → Out} (hu : s.susp = false)
    (hk : ∀ b t, sampleLevel (s.delay Config.sampleDelay) = .ok b t →
      EndsWithin P n (t.waitReset.atPosition .readByte 3) (k b t)) :
    EndsWithin P (n + 2) (s.atPosition .readByte 1) ((sampleLevel (s.delay Config.sampleDelay)).thenOut k) := by
  refine .step rfl hu (blockStep_of_midDelay P rfl rfl) (.resume rfl ?_)
  rw [sampleLevel] at hk ⊢
  cases ha : (s.delay Config.sampleDelay).lineAnswer with
  | level l =>
    rw [ha] at hk
    exact .step rfl rfl (blockStep_of_sample P rfl rfl ha) (hk _ _ rfl)
  | err c => exact .step rfl rfl (blockStep_of_sample_err P rfl rfl ha) (.over (failEntry_readOver _ rfl))

/-- The steps that a bit read takes at most: its two waits, the mid delay and the sample (rule R104). -/
def bitSteps (P : Config.Params) : Nat := 2 * (2 * P.budget + 1) + 2

/-- A bit read, up to the fold that follows its fall wait. -/
theorem endsWithin_of_sampleBit {k : BitVec 1 → State → Out} (hP : P.wf = true) (hu : s.susp = false)
    (hk : ∀ b v, sampleBit P s = .ok b v →
      ∃ t, foldNext (v.atPosition .readByte 3) = .next t ∧ EndsWithin P n t (k b v)) :
    EndsWithin P (n + bitSteps P) (s.waitReset.atPosition .readByte 0) ((sampleBit P s).thenOut k) := by
  rw [sampleBit] at hk ⊢
  rw [andThen_thenOut]
  refine (endsWithin_of_poll (n := n + (2 * P.budget + 1) + 2) hP (waitsAt_rise P) hu fun v hv => ⟨_, rfl, ?_⟩).mono ?_
  · have hvu : v.susp = false := by simpa [hv] using (poll_subStep P .high s hu).keeps.susp
    rw [andThen_thenOut]
    refine endsWithin_of_sampleLevel hvu fun b w hw => ?_
    have hwu : w.susp = false := by simpa [hw] using (sampleLevel_subStep (v.delay Config.sampleDelay) rfl).keeps.susp
    rw [andThen_thenOut]
    refine endsWithin_of_poll hP (waitsAt_fall P) hwu fun x hx => hk b x ?_
    rw [hv, andThen_ok, hw, andThen_ok, hx, andThen_ok]
  · rw [bitSteps]
    omega

end Bit

/-! ### A byte (rules R88 and R101) -/

/-- The state at the start of byte `j`, with the wait for its first rise next (rule R99). -/
def State.atByte (j : BitVec 3) (s : State) : State :=
  ({ s with byteIdx := some j, bitIdx := some 0, shift := some 0 }).waitReset.atPosition .readByte 0

/-- The state after the last fold of byte `j`, whose value is `sh`: the next byte starts, or VALIDATE is next. -/
def State.afterByte (j : BitVec 3) (sh : Byte) (s : State) : State :=
  if j < 4 then ({ s with frame := s.frame.write j sh }).atByte (j + 1)
  else ({ s with frame := s.frame.write j sh }).atPosition .validate 0

section Fold

variable {v : State} {sh : Byte} {b : BitVec 1} {i j : BitVec 3}

theorem foldNext_before_last_bit (hs : v.shift = some sh) (hb : v.bit = some b) (hi : v.bitIdx = some i) (h7 : i < 7) :
    foldNext (v.atPosition .readByte 3) =
      .next (({ v with shift := some (foldBit sh b), bitIdx := some (i + 1) }).waitReset.atPosition .readByte 0) := by
  simp only [foldNext, State.atPosition, hs, hb, hi, withReg_some, if_pos h7]
  rfl

theorem foldNext_last_bit (hs : v.shift = some sh) (hb : v.bit = some b) (hi : v.bitIdx = some 7)
    (hj : v.byteIdx = some j) (h4 : j ≤ 4) :
    foldNext (v.atPosition .readByte 3) =
      .next (({ v with shift := some (foldBit sh b) }).afterByte j (foldBit sh b)) := by
  simp only [foldNext, State.atPosition, hs, hb, hi, hj, withReg_some, if_neg (BitVec.not_lt.mpr h4), State.afterByte,
    apply_ite Host.Outcome.next]
  rfl

end Fold

section Byte

variable {P : Config.Params} {s : State} {n : Nat}

/-- The bits of byte `j` from bit `i` on, each with its fold. -/
theorem endsWithin_of_readBits {left : Nat} {i j : BitVec 3} {sh : Byte} {k : Byte → State → Out} (hP : P.wf = true)
    (hu : s.susp = false) (hs : s.shift = some sh) (hj : s.byteIdx = some j) (h4 : j ≤ 4) (hlen : i.toNat + left + 1 = 8)
    (hk : ∀ sh' v, v.susp = false → v.frame = s.frame → EndsWithin P n (v.afterByte j sh') (k sh' v)) :
    EndsWithin P (n + (left + 1) * bitSteps P) (({ s with bitIdx := some i }).waitReset.atPosition .readByte 0)
      ((readBits P (left + 1) i sh s).thenOut k) := by
  induction left generalizing i sh s with
  | zero =>
    obtain rfl : i = 7 := by bv_omega
    rw [readBits, andThen_thenOut, Nat.zero_add, Nat.one_mul]
    refine endsWithin_of_sampleBit hP hu fun b v hv => ?_
    have hkeeps := (sampleBit_subStep P { s with bitIdx := some 7 } hu).keeps
    rw [hv] at hkeeps
    have hfold := foldNext_last_bit (hkeeps.shift.trans hs) (bit_of_sampleBit_ok hv) hkeeps.bitIdx (hkeeps.byteIdx.trans hj) h4
    exact ⟨_, hfold, hk _ _ hkeeps.susp hkeeps.frame⟩
  | succ left ih =>
    rw [readBits, andThen_thenOut, Nat.succ_mul, ← Nat.add_assoc]
    refine endsWithin_of_sampleBit hP hu fun b v hv => ?_
    have hkeeps := (sampleBit_subStep P { s with bitIdx := some i } hu).keeps
    rw [hv] at hkeeps
    have hfold := foldNext_before_last_bit (hkeeps.shift.trans hs) (bit_of_sampleBit_ok hv) hkeeps.bitIdx (by bv_omega)
    refine ⟨_, hfold, ih (s := { v with shift := some (foldBit sh b) }) hkeeps.susp rfl (hkeeps.byteIdx.trans hj) (by bv_omega)
      fun sh' w hw hf => hk sh' w hw (hf.trans hkeeps.frame)⟩

/-- `VALIDATE`, the last step of a read that has not failed (rule R92). -/
theorem endsWithin_of_validate (hu : s.susp = false) (hf : s.frame.filledBelow 5) :
    EndsWithin P 1 (s.atPosition .validate 0) (validate s) := by
  obtain ⟨d0, d1, d2, d3, c, hframe⟩ := eq_of_filledBelow_five hf
  have hholds : s.frame = Frame.holding ⟨d0, d1, d2, d3⟩ c := hframe
  have hstep := (blockStep_of_validate P (s := s.atPosition .validate 0) rfl rfl).trans (validate_of_holding hholds)
  rw [validate_of_holding hholds]
  refine .step rfl hu hstep ?_
  by_cases hc : (⟨d0, d1, d2, d3⟩ : Payload).sum = c
  · rw [if_pos hc, if_pos hc]
    exact .over (okEntry_readOver _ hu)
  · rw [if_neg hc, if_neg hc]
    exact .over (failEntry_readOver _ hu)

/-- The bytes from byte `j` on, and the validation. -/
theorem endsWithin_of_readBytes {left : Nat} {j : BitVec 3} (hP : P.wf = true) (hu : s.susp = false)
    (hf : s.frame.filledBelow j) (hlen : j.toNat + left + 1 = 5) :
    EndsWithin P (1 + (left + 1) * (8 * bitSteps P)) (s.atByte j)
      ((readBytes P (left + 1) j s).thenOut fun _ => validate) := by
  have h4 : j ≤ 4 := by bv_omega
  induction left generalizing j s with
  | zero =>
    obtain rfl : j = 4 := by bv_omega
    rw [readBytes, andThen_thenOut, readByte, andThen_thenOut, Nat.zero_add, Nat.one_mul]
    refine endsWithin_of_readBits (left := 7) (s := { s with byteIdx := some 4, shift := some 0 }) hP hu rfl rfl h4 rfl
      fun sh v hv hframe => endsWithin_of_validate (s := { v with frame := v.frame.write 4 sh }) hv ?_
    exact filledBelow_write (hframe ▸ hf) h4 sh
  | succ left ih =>
    have hlt : j < 4 := by bv_omega
    rw [readBytes, andThen_thenOut, readByte, andThen_thenOut, Nat.succ_mul, ← Nat.add_assoc]
    refine endsWithin_of_readBits (left := 7) (s := { s with byteIdx := some j, shift := some 0 }) hP hu rfl rfl h4 rfl
      fun sh v hv hframe => ?_
    rw [State.afterByte, if_pos hlt]
    exact ih (s := { v with frame := v.frame.write j sh }) hv (filledBelow_write (hframe ▸ hf) h4 sh) (by bv_omega) (by bv_omega)

end Byte

/-! ### A whole read (rules R91, R99 and R104) -/

/-- The two waits of the handshake, then the bytes and the validation. -/
theorem endsWithin_of_handshake {P : Config.Params} {s : State} (hP : P.wf = true) (hu : s.susp = false) :
    EndsWithin P (1 + 82 * (2 * P.budget + 1) + 40 * 2) (s.waitReset.atPosition .awaitAckHigh 0)
      ((poll P .high s).thenOut fun _ t => (poll P .low t).thenOut fun _ u => (readBytes P 5 0 u).thenOut fun _ => validate) := by
  refine (endsWithin_of_poll (n := 1 + 5 * (8 * bitSteps P) + (2 * P.budget + 1)) hP (waitsAt_awaitAckHigh P) hu
    fun v hv => ⟨_, rfl, ?_⟩).mono ?_
  · have hvu : v.susp = false := by simpa [hv] using (poll_subStep P .high s hu).keeps.susp
    refine endsWithin_of_poll hP (waitsAt_awaitAckLow P) hvu fun w hw => ⟨_, rfl, ?_⟩
    have hwu : w.susp = false := by simpa [hw] using (poll_subStep P .low v hvu).keeps.susp
    exact endsWithin_of_readBytes hP hwu (fun i hi => absurd hi (by simp)) rfl
  · rw [bitSteps]
    omega

/-- The machine's steps after an acceptance run the sequential read, from its drive to its result. -/
theorem endsWithin_of_accept {P : Config.Params} {s : State} (hP : P.wf = true) (hu : s.susp = false) :
    EndsWithin P (3 + 82 * (2 * P.budget + 1) + 40 * 2) s.accept (readWhole P s) := by
  have hdrive : blockStep P s.accept = .next (s.accept.lineDriveHigh.atPosition .startPulse 1) := blockStep_of_drive P rfl rfl
  have hdelay : blockStep P (s.accept.lineDriveHigh.atPosition .startPulse 1) =
      .next ((s.accept.lineDriveHigh.waitReset.atPosition .awaitAckHigh 0).issueDelay Config.startDelay) :=
    blockStep_of_startDelay P rfl rfl
  have hrest := endsWithin_of_handshake (s := s.accept.lineDriveHigh.delay Config.startDelay) hP rfl
  rw [readWhole_eq_thenOut, readSteps, andThen_thenOut]
  simp only [andThen_thenOut]
  have hdelayed := EndsWithin.resume (s := s.accept.lineDriveHigh.waitReset.atPosition .awaitAckHigh 0) rfl hrest
  have hstarted := EndsWithin.step (s := s.accept.lineDriveHigh.atPosition .startPulse 1) rfl hu hdelay hdelayed
  exact (EndsWithin.step (s := s.accept) rfl hu hdrive hstarted).mono (by omega)

/-- Settles O52: the machine's steps end where the sequential read ends, within the steps counted along it. -/
theorem stepMachineRunsTheSequentialProgram : Obligations.StepMachineRunsTheSequentialProgram := by
  intro P s hP _ hu
  obtain ⟨n, t, hn, hsteps, hread, hover⟩ := endsWithin_of_accept hP hu
  exact ⟨n, t, hn, hsteps, hread, hover.busy, hover.resultValid⟩

/-- Settles O53: with this hardware's budget of 100 the steps of O52 are 16565 at most. -/
theorem readEndsWithinItsStepBound : Obligations.ReadEndsWithinItsStepBound := by
  intro s _ hu
  obtain ⟨n, t, hn, hsteps, -, hover⟩ := endsWithin_of_accept (P := Config.hw) rfl hu
  exact ⟨n, t, hn, hsteps, hover.busy, hover.susp, hover.resultValid, hover.result⟩

end Sys2Proof.Machine
end

section
/-! PROOF. The events of a read whose waits all succeed: the sequential read on the line of its script adds the events of the script's
waits and samples, and these are counted part by part. -/

namespace Sys2Proof.Machine

/-! ### The events of the sequential read on a listed line -/

/-- The events of the frame's waits and samples, in order (rules R81, R84 and R91). -/
def FrameScript.events (f : FrameScript) : List Event :=
  waitEvents .high f.ackHigh ++ waitEvents .low f.ackLow ++ (f.bits.map BitScript.events).flatten

/-- A wait of this hardware on the line of its script, by the line and the events alone. -/
theorem poll_on_waitAnswers {T : Level} {k : Nat} {s : State} {rest : List LineAnswer} (hu : s.susp = false) (hk : 1 ≤ k)
    (hB : k ≤ 100) (hl : s.line = waitAnswers T k ++ rest) :
    ∃ t, poll Config.hw T s = .ok () t ∧ t.susp = false ∧ t.line = rest ∧ t.trace = s.trace ++ waitEvents T k :=
  ⟨_, poll_of_waitAnswers hu hk hB hl, hu, rfl, rfl⟩

/-- A byte read on the lines of its eight bits' scripts. -/
theorem readByte_of_answers {xs : List BitScript} (slot : BitVec 3) {s : State} {rest : List LineAnswer} (hu : s.susp = false)
    (hlen : xs.length = 8) (hx : xs.all BitScript.inBudget = true) (hl : s.line = (xs.map BitScript.answers).flatten ++ rest) :
    ∃ v t, readByte Config.hw slot s = .ok v t ∧ t.susp = false ∧ t.line = rest ∧
      t.trace = s.trace ++ (xs.map BitScript.events).flatten := by
  obtain ⟨x, xs, rfl⟩ := List.exists_cons_of_length_eq_add_one hlen
  have h7 : xs.length = 7 := Nat.succ.inj hlen
  have hbits := readBits_of_answers 0 0 (s := { s with shift := some 0 }) hu hx hl
  rw [h7] at hbits
  rw [readByte, Config.bitsPerByte, hbits, andThen_ok]
  exact ⟨_, _, rfl, hu, rfl, rfl⟩

/-- Bytes read on the lines of their bits' scripts, eight to a byte. -/
theorem readBytes_of_answers {left : Nat} {xs : List BitScript} (j : BitVec 3) {s : State} {rest : List LineAnswer}
    (hu : s.susp = false) (hlen : xs.length = 8 * left) (hx : xs.all BitScript.inBudget = true)
    (hl : s.line = (xs.map BitScript.answers).flatten ++ rest) :
    ∃ t, readBytes Config.hw left j s = .ok () t ∧ t.trace = s.trace ++ (xs.map BitScript.events).flatten := by
  induction left generalizing xs j s with
  | zero =>
    obtain rfl : xs = [] := List.length_eq_zero_iff.mp hlen
    exact ⟨s, rfl, by simp⟩
  | succ left ih =>
    obtain ⟨ys, zs, rfl, hys⟩ : ∃ ys zs, xs = ys ++ zs ∧ ys.length = 8 :=
      ⟨xs.take 8, xs.drop 8, (List.take_append_drop 8 xs).symm, List.length_take_of_le (by omega)⟩
    rw [List.length_append] at hlen
    rw [List.all_append, Bool.and_eq_true] at hx
    rw [List.map_append, List.flatten_append, List.append_assoc] at hl
    obtain ⟨v, t, hbyte, htu, htl, htrace⟩ := readByte_of_answers j (s := { s with byteIdx := some j }) hu hys hx.1 hl
    obtain ⟨u, hbytes, hutrace⟩ := ih (j + 1) htu (by omega) hx.2 htl
    rw [readBytes, hbyte, andThen_ok]
    exact ⟨u, hbytes, by simp [hutrace, htrace]⟩

/-- The steps of a read on the line of its frame's script (rule R91). -/
theorem readSteps_of_answers {f : FrameScript} {s : State} {rest : List LineAnswer} (hin : f.inBudget = true)
    (hlen : f.bits.length = 40) (hl : s.line = f.answers ++ rest) :
    ∃ t, readSteps Config.hw s = .ok () t ∧
      t.trace = s.trace ++ [.drive .high s.driveAnswer, .delay 48, .delayDone] ++ f.events := by
  simp only [FrameScript.inBudget, Bool.and_eq_true, decide_eq_true_eq] at hin
  obtain ⟨⟨⟨⟨ha1, ha⟩, hb1⟩, hb⟩, hx⟩ := hin
  simp only [FrameScript.answers, List.append_assoc] at hl
  obtain ⟨t, ht, htu, htl, htrace⟩ := poll_on_waitAnswers (s := s.lineDriveHigh.delay Config.startDelay) rfl ha1 ha hl
  obtain ⟨u, hu, huu, hul, hutrace⟩ := poll_on_waitAnswers htu hb1 hb htl
  obtain ⟨v, hv, hvtrace⟩ := readBytes_of_answers (left := 5) 0 huu hlen hx hul
  refine ⟨v, ?_, by simp [hvtrace, hutrace, htrace, delay_eq, FrameScript.events, Config.startDelay]⟩
  rw [readSteps, ht, andThen_ok, hu, andThen_ok]
  exact hv

/-! ### Counts, part by part (rule R106) -/

theorem driveCount_append (es fs : List Event) : driveCount (es ++ fs) = driveCount es + driveCount fs := List.countP_append

theorem readCount_append (es fs : List Event) : readCount (es ++ fs) = readCount es + readCount fs := List.countP_append

theorem portCount_append (es fs : List Event) : portCount (es ++ fs) = portCount es + portCount fs := List.countP_append

theorem delaysOf_append (n : Nat) (es fs : List Event) : delaysOf n (es ++ fs) = delaysOf n es + delaysOf n fs :=
  List.countP_append

theorem timeUnits_append (es fs : List Event) : timeUnits (es ++ fs) = timeUnits es + timeUnits fs := by
  rw [timeUnits, List.map_append, List.sum_append]
  rfl

/-- The events hold `checks` checks, of which `waits` end a wait that succeeds and the others are misses with their delays, and
`samples` samples with theirs. -/
structure Counted (waits samples checks : Nat) (es : List Event) : Prop where
  drives : driveCount es = 0
  reads : readCount es = checks + samples
  startDelays : delaysOf 48 es = 0
  sampleDelays : delaysOf 35 es = samples
  unitDelays : delaysOf 1 es + waits = checks
  units : timeUnits es + waits = checks + 35 * samples
  ports : portCount es + waits = 2 * checks + 2 * samples

theorem counted_nil : Counted 0 0 0 [] := ⟨rfl, rfl, rfl, rfl, rfl, rfl, rfl⟩

theorem counted_miss (T : Level) : Counted 0 0 1 (missEvents T) := ⟨rfl, rfl, rfl, rfl, rfl, rfl, rfl⟩

theorem counted_found (T : Level) : Counted 1 0 1 [.read (.level T)] := ⟨rfl, rfl, rfl, rfl, rfl, rfl, rfl⟩

theorem counted_sample (l : Level) : Counted 0 1 0 [.delay 35, .delayDone, .read (.level l)] :=
  ⟨rfl, rfl, rfl, rfl, rfl, rfl, rfl⟩

theorem Counted.append {w w' m m' c c' : Nat} {es fs : List Event} (h : Counted w m c es) (k : Counted w' m' c' fs) :
    Counted (w + w') (m + m') (c + c') (es ++ fs) := by
  obtain ⟨hd, hr, h48, h35, h1, hu, hp⟩ := h
  obtain ⟨kd, kr, k48, k35, k1, ku, kp⟩ := k
  constructor
  · rw [driveCount_append, hd, kd]
  · rw [readCount_append]; omega
  · rw [delaysOf_append, h48, k48]
  · rw [delaysOf_append, h35, k35]
  · rw [delaysOf_append]; omega
  · rw [timeUnits_append]; omega
  · rw [portCount_append]; omega

theorem counted_misses (T : Level) (m : Nat) : Counted 0 0 m (List.replicate m (missEvents T)).flatten := by
  induction m with
  | zero => exact counted_nil
  | succ m ih =>
    rw [List.replicate_succ', List.flatten_append, List.flatten_singleton]
    exact ih.append (counted_miss T)

theorem counted_wait (T : Level) {k : Nat} (hk : 1 ≤ k) : Counted 1 0 k (waitEvents T k) := by
  obtain ⟨m, rfl⟩ := Nat.exists_eq_add_of_le' hk
  have h := (counted_misses T m).append (counted_found T)
  rwa [Nat.zero_add] at h

theorem counted_bit {x : BitScript} (hx : x.inBudget = true) : Counted 2 1 x.checks x.events := by
  simp only [BitScript.inBudget, Bool.and_eq_true, decide_eq_true_eq] at hx
  obtain ⟨⟨⟨hr, -⟩, hf⟩, -⟩ := hx
  exact ((counted_wait .high hr).append (counted_sample _)).append (counted_wait .low hf)

theorem counted_bits {xs : List BitScript} (hx : xs.all BitScript.inBudget = true) :
    Counted (2 * xs.length) xs.length (xs.map BitScript.checks).sum (xs.map BitScript.events).flatten := by
  induction xs with
  | nil => exact counted_nil
  | cons x xs ih =>
    rw [List.all_cons, Bool.and_eq_true] at hx
    have h := (counted_bit hx.1).append (ih hx.2)
    rwa [Nat.add_comm 2, Nat.add_comm 1] at h

/-- The 82 waits and 40 samples of a frame. -/
theorem counted_frame {f : FrameScript} (hin : f.inBudget = true) (hlen : f.bits.length = 40) :
    Counted 82 40 f.checks f.events := by
  simp only [FrameScript.inBudget, Bool.and_eq_true, decide_eq_true_eq] at hin
  obtain ⟨⟨⟨⟨ha, -⟩, hb⟩, -⟩, hx⟩ := hin
  have h := ((counted_wait .high ha).append (counted_wait .low hb)).append (counted_bits hx)
  rwa [hlen] at h

/-- No wait of this hardware makes more than 100 checks. -/
theorem FrameScript.checks_le {f : FrameScript} (hin : f.inBudget = true) (hlen : f.bits.length = 40) : f.checks ≤ 8200 := by
  simp only [FrameScript.inBudget, Bool.and_eq_true, decide_eq_true_eq] at hin
  obtain ⟨⟨⟨⟨-, ha⟩, -⟩, hb⟩, hx⟩ := hin
  have hbit : ∀ n ∈ f.bits.map BitScript.checks, n ≤ 200 := by
    intro n hn
    obtain ⟨x, hmem, rfl⟩ := List.mem_map.mp hn
    have hxb := List.all_eq_true.mp hx x hmem
    simp only [BitScript.inBudget, Bool.and_eq_true, decide_eq_true_eq] at hxb
    rw [BitScript.checks]
    omega
  have hbits := List.sum_le_card_nsmul _ 200 hbit
  rw [List.length_map, hlen, smul_eq_mul] at hbits
  rw [FrameScript.checks]
  omega

theorem FrameScript.bits_length {f : FrameScript} {d : Payload} {c : Byte} (h : f.carries d c) : f.bits.length = 40 := by
  rw [← List.length_map (f := BitScript.bit), h]
  simp

/-! ### A whole read -/

/-- `VALIDATE` makes one event, the result (rule R92). -/
theorem ValidateTo.trace {s t : State} (h : ValidateTo s t) : ∃ r, t.trace = s.trace ++ [r] := by
  cases h with
  | accepts | rejects => exact ⟨_, rfl⟩

/-- The events before the first wait of a read (rules R91 and R99). -/
def startEvents (a : DriveAnswer) : List Event := [.accept, .drive .high a, .delay 48, .delayDone]

theorem startEvents_counts (a : DriveAnswer) :
    driveCount (startEvents a) = 1 ∧ readCount (startEvents a) = 0 ∧ delaysOf 48 (startEvents a) = 1 ∧
      delaysOf 35 (startEvents a) = 0 ∧ delaysOf 1 (startEvents a) = 0 ∧ timeUnits (startEvents a) = 48 ∧
      portCount (startEvents a) = 2 :=
  ⟨rfl, rfl, rfl, rfl, rfl, rfl, rfl⟩

/-- The events of a read from its acceptance up to its result. -/
theorem readWhole_of_answers {f : FrameScript} {s : State} {rest : List LineAnswer} (hu : s.susp = false)
    (hin : f.inBudget = true) (hlen : f.bits.length = 40) (hl : s.line = f.answers ++ rest) :
    ∃ t r, readWhole Config.hw s = .next t ∧
      t.trace = s.trace ++ (startEvents s.driveAnswer ++ f.events) ++ [r] := by
  obtain ⟨-, t, -, -, hread, -⟩ := endsWithin_of_accept (P := Config.hw) rfl hu
  obtain ⟨u, hsteps, hu⟩ := readSteps_of_answers (s := s.accept) hin hlen hl
  have hval : validate u = .next t := by
    rw [← hread, readWhole_eq_thenOut, hsteps, thenOut_ok]
  obtain ⟨r, hr⟩ := (validate_next hval).trace
  have ha : s.accept.driveAnswer = s.driveAnswer := rfl
  exact ⟨t, r, hread, by simp [hr, hu, ha, startEvents]⟩

/-- Settles O55: the start of the read adds the drive and the start delay to the counts of the frame's waits and samples. -/
theorem countsOfACompleteRead : Obligations.CountsOfACompleteRead := by
  intro s f d c rest _ hu hin hf hl
  have hlen := FrameScript.bits_length hf
  obtain ⟨t, r, hread, ht⟩ := readWhole_of_answers hu hin hlen hl
  have hle := FrameScript.checks_le hin hlen
  obtain ⟨hdrives, hreads, h48, h35, h1, hunits, hports⟩ := counted_frame hin hlen
  refine ⟨t, _, r, hread, ht, ?_⟩
  simp only [driveCount_append, readCount_append, delaysOf_append, timeUnits_append, portCount_append]
  obtain ⟨sdrives, sreads, s48, s35, s1, sunits, sports⟩ := startEvents_counts s.driveAnswer
  omega

end Sys2Proof.Machine
end

section
/-! PROOF. Failures and races: what the failure entry writes, and an `ABORT` before and after another agent's turn. -/

namespace Sys2Proof.Machine

/-! ### The failure entry (rules R108 and R113) -/

/-- Settles O39, kind by kind: the entry writes the kind's code and cause, and the host reads the kind back from them. -/
theorem failureEntryWritesTheKind : Obligations.FailureEntryWritesTheKind := by
  intro s k
  cases k with
  | lineError c => exact ⟨rfl, rfl⟩
  | timeout => exact ⟨rfl, rfl⟩
  | checksumMismatch => exact ⟨rfl, rfl⟩

/-! ### An `ABORT` beside another agent's turn (rule R117) -/

theorem undisturbed_eq {s : State} (hl : s.lineShared = false) (is : List Input) : { s with inputs := is } = s.undisturbed is := by
  rw [State.undisturbed, ← hl]

theorem core_run_one (M : Host.Core) (s : M.State) : M.run 1 s = M.step s := by
  simp only [Host.Core.run]
  cases M.step s with
  | next t => rfl
  | fault r => rfl
  | refused r => rfl

/-- Two listed moves of an undisturbed state: the second runs where the first ends. -/
theorem run_two_moves {m m' : Move} {is : List Input} {s t : State}
    (h : runMove m (s.undisturbed (moveTurn m' :: is)) = .next (t.undisturbed (moveTurn m' :: is))) :
    Host.Core.run core 2 (s.undisturbed (moveTurn m :: moveTurn m' :: is)) = runMove m' (t.undisturbed is) := by
  rw [run_succ_of_next ((step_undisturbed m _ s).trans h), ← step_undisturbed]
  exact core_run_one core _

/-- The host's 0x9000 is an `ABORT` (rule R68). -/
theorem runMove_abort (s : State) : runMove (.host 0x9000) s = execAbort s :=
  hostWrite_of_hostCommand (w := 0x9000) (i := .abort) (by decide) rfl s

theorem runMove_block_of_not_busy {t : State} (h : t.busy = false) : runMove .block t = .next t := blockTurn_of_not_busy _ h

theorem runMove_timeSource_of_not_susp {t : State} (h : t.susp = false) : runMove .timeSource t = .next t := by
  simp [runMove, State.timeTurn, h]

/-- With the `ABORT` first the read ends, and a turn that does nothing while `BUSY = 0` and `SUSP = 0` finds nothing to do. -/
theorem run_abort_then {m : Move} (hm : ∀ t : State, t.busy = false → t.susp = false → runMove m t = .next t) (is : List Input)
    {s : State} (hb : s.busy = true) :
    Host.Core.run core 2 (s.undisturbed (moveTurn (.host 0x9000) :: moveTurn m :: is)) = .next (s.abortRead.undisturbed is) := by
  have habort : runMove (.host 0x9000) (s.undisturbed (moveTurn m :: is)) =
      .next (s.abortRead.undisturbed (moveTurn m :: is)) := (runMove_abort _).trans (if_pos hb)
  rw [run_two_moves habort]
  exact hm _ rfl rfl

/-- With the block's step first, the `ABORT` finds the state that the step answers. -/
theorem run_block_then_abort {s u : State} {is : List Input} (he : s.blockEnabled = true)
    (h : blockStep Config.hw (s.undisturbed is) = .next u) :
    Host.Core.run core 2 (s.undisturbed (moveTurn .block :: moveTurn (.host 0x9000) :: is)) = execAbort u := by
  have hstep (js : List Input) : blockStep Config.hw (s.undisturbed js) = .next (u.undisturbed js) :=
    (blockStep_undisturbed Config.hw js (s.undisturbed is)).trans (congrArg (undisturbedOut js) h)
  have hu : u = u.undisturbed is := Host.Outcome.next.inj (h.symm.trans (hstep is))
  have hblock : runMove .block (s.undisturbed (moveTurn (.host 0x9000) :: is)) =
      .next (u.undisturbed (moveTurn (.host 0x9000) :: is)) := (if_pos he).trans (hstep _)
  rw [run_two_moves hblock, ← hu, runMove_abort]

/-- With the time source first, the delay completes and the `ABORT` then ends the read. -/
theorem run_timeSource_then_abort (is : List Input) {s : State} (hb : s.busy = true) (hu : s.susp = true) :
    Host.Core.run core 2 (s.undisturbed (moveTurn .timeSource :: moveTurn (.host 0x9000) :: is)) =
      .next (s.delayDone.abortRead.undisturbed is) := by
  have htime : runMove .timeSource (s.undisturbed (moveTurn (.host 0x9000) :: is)) =
      .next (s.delayDone.undisturbed (moveTurn (.host 0x9000) :: is)) := congrArg Host.Outcome.next (if_pos hu)
  rw [run_two_moves htime, runMove_abort]
  exact if_pos hb

/-- Settles O45: each order as the run of two moves, the first of which leaves the second its state. -/
theorem abortAndBlockStepInEitherOrder : Obligations.AbortAndBlockStepInEitherOrder := by
  refine ⟨fun s u rest hb hu hl h => ?_, fun s rest hb hu hl => ?_⟩
  · simp only [undisturbed_eq hl] at h ⊢
    refine ⟨?_, run_block_then_abort (blockEnabled_iff.mpr ⟨hb, hu⟩) h⟩
    rw [run_abort_then (fun _ h _ => runMove_block_of_not_busy h) rest hb]
    simp [State.abortRead, State.undisturbed, hu, hl]
  · simp only [undisturbed_eq hl]
    rw [run_abort_then (fun _ _ => runMove_timeSource_of_not_susp) rest hb, run_timeSource_then_abort rest hb hu]
    simp [State.abortRead, State.delayDone, State.undisturbed, hl]

end Sys2Proof.Machine
end

section
/-! PROOF. The causes of line errors: a turn of the hardware copies them and never looks at them, so it does the same with the causes
renamed. -/

namespace Sys2Proof.Machine

/-- The failure kind with its cause renamed. -/
def FailKind.rename (f : LineCause → LineCause) : FailKind → FailKind
  | .lineError c => .lineError (f c)
  | .timeout => .timeout
  | .checksumMismatch => .checksumMismatch

@[simp] theorem renameOut_next (f : LineCause → LineCause) (s : State) : renameOut f (.next s) = .next (s.rename f) := rfl

@[simp] theorem renameOut_fault (f : LineCause → LineCause) (r : Fault) : renameOut f (.fault r) = .fault r := rfl

@[simp] theorem renameOut_refused (f : LineCause → LineCause) (r : Refusal) : renameOut f (.refused r) = .refused r := rfl

section Rename
variable (f : LineCause → LineCause)

/-! ### The shared operations with the causes renamed (rule R109) -/

theorem rename_lineAnswer {s : State} (hl : s.line ≠ []) : (s.rename f).lineAnswer = s.lineAnswer.rename f := by
  obtain ⟨a, rest, h⟩ := List.exists_cons_of_ne_nil hl
  simp [State.rename, State.lineAnswer, h]

theorem rename_driveAnswer {s : State} (hd : s.drive ≠ []) : (s.rename f).driveAnswer = s.driveAnswer.rename f := by
  obtain ⟨a, rest, h⟩ := List.exists_cons_of_ne_nil hd
  simp [State.rename, State.driveAnswer, h]

theorem rename_lineRead {s : State} (hl : s.line ≠ []) : (s.rename f).lineRead = s.lineRead.rename f := by
  rw [State.lineRead, rename_lineAnswer f hl]
  simp [State.lineRead, State.rename, Event.rename]

theorem rename_lineDriveHigh {s : State} (hd : s.drive ≠ []) : (s.rename f).lineDriveHigh = s.lineDriveHigh.rename f := by
  rw [State.lineDriveHigh, rename_driveAnswer f hd]
  simp [State.lineDriveHigh, State.rename, Event.rename]

theorem rename_check {s : State} (hl : s.line ≠ []) (cnt : BitVec 7) : (s.rename f).check cnt = (s.check cnt).rename f := by
  rw [State.check, rename_lineRead f hl]
  rfl

theorem rename_issueDelay (n : Nat) (s : State) : (s.rename f).issueDelay n = (s.issueDelay n).rename f := by
  simp [State.issueDelay, State.rename, Event.rename]

theorem rename_delayDone (s : State) : (s.rename f).delayDone = s.delayDone.rename f := by
  simp [State.delayDone, State.rename, Event.rename]

/-- A failure entry copies the cause of its kind. -/
theorem rename_failEntry (k : FailKind) (s : State) : (s.rename f).failEntry (k.rename f) = (s.failEntry k).rename f := by
  cases k <;> simp [State.failEntry, State.rename, FailKind.rename, FailKind.code, FailKind.cause, Event.rename]

theorem rename_okEntry (d : Payload) (s : State) : (s.rename f).okEntry d = (s.okEntry d).rename f := by
  simp [State.okEntry, State.rename, Event.rename]

theorem rename_accept (s : State) : (s.rename f).accept = s.accept.rename f := by
  simp [State.accept, State.rename, Event.rename]

theorem rename_abortRead (s : State) : (s.rename f).abortRead = s.abortRead.rename f := by
  simp [State.abortRead, State.rename, Event.rename]

theorem withReg_rename {α : Type} (r : RegName) (v : Option α) {k k' : α → Out} (hk : ∀ x, k' x = renameOut f (k x)) :
    withReg r v k' = renameOut f (withReg r v k) := by
  cases v with
  | some x => exact hk x
  | none => rfl

/-! ### A turn of the hardware with the causes renamed -/

theorem pollStep_rename (P : Config.Params) (T : Level) {s : State} {K : State → Out} (hl : s.line ≠ [])
    (hK : ∀ u : State, K (u.rename f) = renameOut f (K u)) :
    pollStep P T K (s.rename f) = renameOut f (pollStep P T K s) := by
  refine withReg_rename f _ _ fun cnt => withReg_rename f _ _ fun owed => ?_
  have hd := rename_issueDelay f Config.pollDelay { s with pdly := some false }
  have ht := rename_failEntry f .timeout
  rw [rename_lineAnswer f hl, rename_check f hl, hK]
  cases s.lineAnswer with
  | err c =>
    have he := rename_failEntry f (.lineError c) (s.check cnt)
    simp only [apply_ite (renameOut f), renameOut_fault, renameOut_next, ← hd, ← ht, ← he]
    rfl
  | level l =>
    simp only [apply_ite (renameOut f), renameOut_fault, renameOut_next, ← hd, ← ht]
    rfl

theorem foldNext_rename (s : State) : foldNext (s.rename f) = renameOut f (foldNext s) := by
  refine withReg_rename f _ _ fun sh => withReg_rename f _ _ fun b => withReg_rename f _ _ fun i => ?_
  rw [apply_ite (renameOut f)]
  congr 1
  refine withReg_rename f _ _ fun j => ?_
  simp only [apply_ite (renameOut f)]
  rfl

theorem validate_rename (s : State) : validate (s.rename f) = renameOut f (validate s) := by
  refine withReg_rename f _ _ fun d0 => withReg_rename f _ _ fun d1 => withReg_rename f _ _ fun d2 =>
    withReg_rename f _ _ fun d3 => withReg_rename f _ _ fun c => ?_
  rw [apply_ite (renameOut f), rename_okEntry, renameOut_next, renameOut_next, ← rename_failEntry]
  rfl

theorem atSubZero_rename {s : State} {k : State → Out} (hk : k (s.rename f) = renameOut f (k s)) :
    atSubZero k (s.rename f) = renameOut f (atSubZero k s) := by
  rw [atSubZero, atSubZero, apply_ite (renameOut f), hk]
  rfl

theorem startPulseStep_rename {s : State} (hd : s.drive ≠ []) :
    startPulseStep (s.rename f) = renameOut f (startPulseStep s) := by
  have hdelay := rename_issueDelay f Config.startDelay ({ s with phase := .awaitAckHigh, sub := 0 } : State).waitReset
  rw [startPulseStep, startPulseStep, rename_lineDriveHigh f hd]
  simp only [apply_ite (renameOut f), renameOut_next, ← hdelay]
  rfl

theorem sampleStep_rename {s : State} (hl : s.line ≠ []) : sampleStep (s.rename f) = renameOut f (sampleStep s) := by
  rw [sampleStep, sampleStep, sampleLevel, sampleLevel, rename_lineAnswer f hl, rename_lineRead f hl]
  cases s.lineAnswer with
  | level l => rfl
  | err c => exact congrArg Host.Outcome.next (rename_failEntry f (.lineError c) s.lineRead)

theorem readByteStep_rename (P : Config.Params) {s : State} (hl : s.line ≠ []) :
    readByteStep P (s.rename f) = renameOut f (readByteStep P s) := by
  have hdelay := rename_issueDelay f Config.sampleDelay { s with sub := 2 }
  rw [readByteStep, readByteStep, pollStep_rename f P .high hl fun _ => rfl, sampleStep_rename f hl,
    pollStep_rename f P .low hl (foldNext_rename f)]
  simp only [apply_ite (renameOut f), renameOut_next, ← hdelay]
  rfl

theorem blockStep_rename (P : Config.Params) {s : State} (hl : s.line ≠ []) (hd : s.drive ≠ []) :
    blockStep P (s.rename f) = renameOut f (blockStep P s) := by
  have hp : (s.rename f).phase = s.phase := rfl
  rw [blockStep, blockStep, hp]
  cases s.phase with
  | idle | done | failed => rfl
  | startPulse => exact startPulseStep_rename f hd
  | awaitAckHigh => exact atSubZero_rename f (pollStep_rename f P .high hl fun _ => rfl)
  | awaitAckLow => exact atSubZero_rename f (pollStep_rename f P .low hl fun _ => rfl)
  | readByte => exact readByteStep_rename f P hl
  | validate => exact atSubZero_rename f (validate_rename f s)

theorem blockTurn_rename (P : Config.Params) {s : State} (hl : s.line ≠ []) (hd : s.drive ≠ []) :
    blockTurn P (s.rename f) = renameOut f (blockTurn P s) := by
  rw [blockTurn, blockTurn, apply_ite (renameOut f), blockStep_rename f P hl hd]
  rfl

theorem timeTurn_rename (s : State) : (s.rename f).timeTurn = s.timeTurn.rename f := by
  rw [State.timeTurn, State.timeTurn, apply_ite (State.rename f), rename_delayDone]
  rfl

theorem exec_hostCommand_rename {i : Instr} (hi : i.isHostCommand = true) (s : State) :
    exec i (s.rename f) = renameOut f (exec i s) := by
  cases i with
  | readFrame =>
    rw [exec, exec, execReadFrame, execReadFrame, apply_ite (renameOut f), rename_accept]
    rfl
  | abort =>
    rw [exec, exec, execAbort, execAbort, apply_ite (renameOut f), rename_abortRead]
    rfl
  | driveHigh | readLevel | delay | pollLow | pollHigh | sampleBit | readByte | validate => cases hi

theorem hostWrite_rename (w : Word) (s : State) : hostWrite w (s.rename f) = renameOut f (hostWrite w s) := by
  rw [hostWrite, hostWrite]
  cases decode w with
  | error _ => rfl
  | ok i =>
    cases hi : i.isHostCommand with
    | true => simpa [hi] using exec_hostCommand_rename f hi s
    | false => simp [hi]

theorem runMove_rename (m : Move) {s : State} (hl : s.line ≠ []) (hd : s.drive ≠ []) :
    runMove m (s.rename f) = renameOut f (runMove m s) := by
  cases m with
  | block => exact blockTurn_rename f Config.hw hl hd
  | timeSource => exact congrArg Host.Outcome.next (timeTurn_rename f s)
  | host w => exact hostWrite_rename f w s
  | lineUser on => rfl

theorem runInput_turn_rename (u : Turn) {s : State} (hl : s.line ≠ []) (hd : s.drive ≠ []) :
    runInput (.turn u) (s.rename f) = renameOut f (runInput (.turn u) s) := by
  simp only [runInput, apply_ite (renameOut f), runMove_rename f u.move hl hd]
  rfl

end Rename

/-- Settles O51: the step takes its input, a turn, and each thing a turn can do copies the causes it finds. -/
theorem causesAreCopiedNeverInspected : Obligations.CausesAreCopiedNeverInspected := by
  intro f s u rest hin hl hd
  have hu : s.nextInput = .turn u := by simp [State.nextInput, hin]
  have hstep : step (s.rename f) = runInput s.nextInput (s.takeInput.rename f) := rfl
  rw [hstep, step, hu, runInput_turn_rename f u (s := s.takeInput) hl hd]

end Sys2Proof.Machine
end

section
/-! PROOF. Reset and hazards: the harness word and the reset turn, the refusal of a shared line, the block's state between reads, and the
block that waits for the time source. -/

namespace Sys2Proof.Machine

/-! ### Listed inputs (rules R98, R117 and R131) -/

/-- A step takes the listed input off and runs it. -/
theorem step_of_cons {i : Input} {s : State} {rest : List Input} (hin : s.inputs = i :: rest) :
    step s = runInput i { s with inputs := rest } := by
  have hn : s.nextInput = i := by simp [State.nextInput, hin]
  have ht : s.takeInput = { s with inputs := rest } := by simp [State.takeInput, hin]
  rw [step, hn, ht]

theorem harnessRun_of_ok {w : Word} {i : Instr} (h : decode w = .ok i) (s : State) : harnessRun w s = exec i s := by
  rw [harnessRun, h]

/-- Settles O6: with no conflict on the line the harness word runs, and what runs is what it decodes to. -/
theorem stepRunsTheHarnessWord : Obligations.StepRunsTheHarnessWord := by
  intro s w i rest hin hd hl
  rw [step_of_cons hin, ← harnessRun_of_ok hd]
  exact if_neg (Bool.eq_false_iff.mp hl)

theorem lineConflict_of_not_busy {s : State} (h : s.busy = false) : s.lineConflict = false := by
  rw [State.lineConflict, h, Bool.false_and]

/-- The host's 0x8000 is a `READ_FRAME` (rule R68). -/
theorem runMove_readFrame (s : State) : runMove (.host 0x8000) s = execReadFrame s :=
  hostWrite_of_hostCommand (w := 0x8000) (i := .readFrame) (by decide) rfl s

/-- Settles O11: the reset is looked at before all else; after it the block is not busy, so no line conflict and no delay is left, the
time source and the block find nothing to do, and a `READ_FRAME` is accepted. -/
theorem resetTurnResetsTheBlock : Obligations.ResetTurnResetsTheBlock := by
  intro s m rest hin
  refine ⟨_, step_of_cons hin, rfl, fun m' hm' => ?_, ?_⟩
  · rw [step_of_moveTurn rfl (lineConflict_of_not_busy rfl)]
    rcases List.mem_pair.mp hm' with rfl | rfl
    · exact runMove_timeSource_of_not_susp rfl
    · exact runMove_block_of_not_busy rfl
  · rw [step_of_moveTurn rfl (lineConflict_of_not_busy rfl), runMove_readFrame]
    exact exec_readFrame_of_not_busy rfl

/-- Settles O13, by the kind of the input: a turn without reset and a harness word are each refused on a line conflict. -/
theorem sharedLineIsRefused : Obligations.SharedLineIsRefused := by
  intro s hb hl hr
  have hconflict : s.takeInput.lineConflict = true := by
    rw [State.lineConflict, State.takeInput_lineShared, hl, Bool.and_true]
    exact hb
  rw [step]
  cases hi : s.nextInput with
  | harness w => exact if_pos hconflict
  | turn u =>
    obtain ⟨reset, m⟩ := u
    cases reset with
    | true => exact absurd hi (hr m)
    | false => exact if_pos hconflict

/-! ### Between reads (rule R128) -/

theorem readFrame_word {w : Word} (h : decode w = .ok .readFrame) : w = 0x8000 := (encode_of_decode h).2.symm

/-- `t` is `s` but for the environment's inputs, draws and use of the line. -/
def SameBlock (s t : State) : Prop := { s with inputs := t.inputs, draws := t.draws, lineShared := t.lineShared } = t

theorem SameBlock.hostView_eq {s t : State} (h : SameBlock s t) : t.hostView = s.hostView := by
  rw [← h]
  rfl

/-- With `BUSY = 0` and `SUSP = 0` a turn that is neither a reset nor the host's `READ_FRAME` finds nothing to do. -/
theorem RunInputTo.sameBlock {u : Turn} {s t : State} (h : RunInputTo (.turn u) s t) (hb : s.busy = false)
    (hu : s.susp = false) (hread : (.turn u : Input) ≠ moveTurn (.host 0x8000))
    (hreset : ∀ m, (.turn u : Input) ≠ .turn { reset := true, move := m }) : SameBlock s t := by
  cases h with
  | reset m hi => exact absurd hi (hreset m)
  | block _ _ he => cases hb.symm.trans (blockEnabled_iff.mp he).1
  | blockWaits => rfl
  | timeSource =>
    have hs : s.timeTurn = s := by rw [State.timeTurn, hu]; rfl
    rw [hs]
    rfl
  | lineUser => rfl
  | accept w hi hw => exact absurd (readFrame_word hw ▸ hi) hread
  | abort _ _ _ hbusy => cases hb.symm.trans hbusy
  | ignored => rfl
  | harness _ _ _ hi => cases hi

/-- The states of the invariant with `BUSY = 0`: a result in DONE and FAILED, none in IDLE (rules R24 and R128). -/
theorem result_of_resultInv {s : State} (hr : s.resultInv) (hb : s.busy = false) :
    (s.phase = .idle → s.resultValid = false) ∧ (s.phase ≠ .idle → s.resultValid = true ∧ s.result.isSome = true) := by
  unfold State.resultInv at hr
  cases hp : s.phase with
  | idle =>
    rw [hp] at hr
    exact ⟨fun _ => hr.1, fun h => absurd rfl h⟩
  | done =>
    rw [hp] at hr
    obtain ⟨hv, hst, -⟩ := hr
    exact ⟨nofun, fun _ => ⟨hv, by simp [State.result, hv, hst]⟩⟩
  | failed =>
    rw [hp] at hr
    obtain ⟨hv, hst, hcause, -⟩ := hr
    refine ⟨nofun, fun _ => ⟨hv, ?_⟩⟩
    rw [State.result, if_pos hv, if_neg hst]
    split_ifs with h1
    · rw [Option.isSome_map]
      exact hcause.mpr h1
    · rfl
    · rfl
  | startPulse | awaitAckHigh | awaitAckLow | readByte | validate => cases hb.symm.trans (busy_of_phase hp)

/-- Settles O42: the step runs a turn, which leaves the block alone; the invariant says which of its states have a result. -/
theorem resultHoldsBetweenReads : Obligations.ResultHoldsBetweenReads := by
  refine ⟨fun s t hh hb hu h hread hreset => ?_, fun s hs hb => result_of_resultInv hs.2.2 hb⟩
  obtain ⟨u, hturn⟩ := nextInput_eq_turn hh
  rw [hturn] at hread hreset
  have hsame : SameBlock s t := (hturn ▸ step_next h).sameBlock hb hu hread hreset
  exact ⟨hsame.hostView_eq, hsame⟩

/-! ### A delay that is never completed (rules R103 and R139) -/

/-- A suspended block's turn and any host word but `ABORT` change nothing while a read is in progress. -/
theorem runMove_of_suspended {m : Move} {s : State} (hb : s.busy = true) (hu : s.susp = true)
    (hm : m = .block ∨ ∃ w : Word, m = .host w ∧ w ≠ 0x9000) : runMove m s = .next s := by
  obtain rfl | ⟨w, rfl, h9⟩ := hm
  · exact if_neg (Bool.eq_false_iff.mp (blockEnabled_eq_false_iff.mpr (.inr hu)))
  · by_cases h8 : w = 0x8000
    · rw [h8, runMove_readFrame]
      exact exec_readFrame_of_busy hb
    · exact hostWrite_of_other h8 h9 s

/-- Settles O44, by induction on the moves: each changes nothing but the inputs. -/
theorem suspendedBlockIsStuckWithoutTheTimeSource : Obligations.SuspendedBlockIsStuckWithoutTheTimeSource := by
  intro s ws rest hb hu hl hws hin
  induction ws generalizing s with
  | nil =>
    have hrest : s.inputs = rest := hin
    rw [← hrest]
    rfl
  | cons m ws ih =>
    rw [List.forall_mem_cons] at hws
    have hstep : step s = .next { s with inputs := ws.map moveTurn ++ rest } :=
      (step_of_moveTurn hin (by rw [State.lineConflict, hl, Bool.and_false])).trans (runMove_of_suspended hb hu hws.1)
    rw [List.length_cons, run_succ_of_next hstep]
    exact ih _ hb hu hl hws.2 rfl

end Sys2Proof.Machine
end

section
/-! PROOF. Any read is bounded, whatever the line answers: the events of each part of a read, counted at most, and put together for the
wait, the bit, the bytes and the whole read. -/

namespace Sys2Proof.Machine

/-! ### Events counted at most (rules R106 and R107) -/

/-- An event that a read may add after its start delay: a read of the line, a delay of a wait or of a sample, a completion, a result. -/
def Event.afterStart : Event → Bool
  | .read _ => true
  | .delay n => n = 1 || n = 35
  | .delayDone => true
  | .result _ _ _ => true
  | _ => false

/-- The events are of those kinds, with at most so many reads, unit delays and sample delays. -/
structure AtMost (reads units samples : Nat) (es : List Event) : Prop where
  kinds : es.all Event.afterStart = true
  reads : readCount es ≤ reads
  unitDelays : delaysOf 1 es ≤ units
  sampleDelays : delaysOf 35 es ≤ samples

theorem atMost_nil : AtMost 0 0 0 [] := ⟨rfl, le_rfl, le_rfl, le_rfl⟩

theorem atMost_missEvents (T : Level) : AtMost 1 1 0 (missEvents T) := ⟨rfl, le_rfl, le_rfl, le_rfl⟩

theorem atMost_read (a : LineAnswer) : AtMost 1 0 0 [.read a] := ⟨rfl, le_rfl, le_rfl, le_rfl⟩

theorem atMost_sampleDelay : AtMost 0 0 1 [.delay 35, .delayDone] := ⟨rfl, le_rfl, le_rfl, le_rfl⟩

theorem atMost_result (st : BitVec 2) (c : Option LineCause) (d : Payload) : AtMost 0 0 0 [.result st c d] :=
  ⟨rfl, le_rfl, le_rfl, le_rfl⟩

theorem AtMost.append {r r' u u' m m' : Nat} {es fs : List Event} (h : AtMost r u m es) (k : AtMost r' u' m' fs) :
    AtMost (r + r') (u + u') (m + m') (es ++ fs) where
  kinds := by rw [List.all_append, h.kinds, k.kinds, Bool.and_self]
  reads := (readCount_append es fs).trans_le (Nat.add_le_add h.reads k.reads)
  unitDelays := (delaysOf_append 1 es fs).trans_le (Nat.add_le_add h.unitDelays k.unitDelays)
  sampleDelays := (delaysOf_append 35 es fs).trans_le (Nat.add_le_add h.sampleDelays k.sampleDelays)

theorem AtMost.mono {r r' u u' m m' : Nat} {es : List Event} (h : AtMost r u m es) (hr : r ≤ r') (hu : u ≤ u') (hm : m ≤ m') :
    AtMost r' u' m' es :=
  ⟨h.kinds, h.reads.trans hr, h.unitDelays.trans hu, h.sampleDelays.trans hm⟩

/-- The reads and the two kinds of delay account for every port event and time unit, and there is no drive. -/
structure Accounted (es : List Event) : Prop where
  drives : driveCount es = 0
  ports : portCount es = readCount es + delaysOf 1 es + delaysOf 35 es
  units : timeUnits es = delaysOf 1 es + 35 * delaysOf 35 es

theorem Accounted.append {es fs : List Event} (h : Accounted es) (k : Accounted fs) : Accounted (es ++ fs) where
  drives := by rw [driveCount_append, h.drives, k.drives]
  ports := by rw [portCount_append, h.ports, k.ports, readCount_append, delaysOf_append, delaysOf_append]; omega
  units := by rw [timeUnits_append, h.units, k.units, delaysOf_append, delaysOf_append]; omega

theorem accounted_singleton {e : Event} (h : e.afterStart = true) : Accounted [e] := by
  cases e with
  | read | delayDone | result => exact ⟨rfl, rfl, rfl⟩
  | delay n =>
    obtain rfl | rfl : n = 1 ∨ n = 35 := by simpa [Event.afterStart] using h
    · exact ⟨rfl, rfl, rfl⟩
    · exact ⟨rfl, rfl, rfl⟩
  | drive | accept | abort => cases h

theorem accounted_of_afterStart {es : List Event} (h : es.all Event.afterStart = true) : Accounted es := by
  induction es with
  | nil => exact ⟨rfl, rfl, rfl⟩
  | cons e es ih =>
    rw [List.all_cons, Bool.and_eq_true] at h
    exact (accounted_singleton h.1).append (ih h.2)

/-! ### What a run spends -/

/-- The trace of `t` is `es` with events added, counted at most. -/
def SpendsTo (reads units samples : Nat) (es : List Event) (t : State) : Prop :=
  ∃ fs, t.trace = es ++ fs ∧ AtMost reads units samples fs

/-- A run after the events `es` spends at most so much, and one unit delay more if it fails: a wait that times out makes its last
delay too (rule R78). -/
def Run.Spends {α : Type} (reads units samples : Nat) (es : List Event) : Run α → Prop
  | .ok _ t => SpendsTo reads units samples es t
  | .failed t => SpendsTo reads (units + 1) samples es t

section Spends

variable {α β : Type} {r r' u u' m m' : Nat} {es fs : List Event}

theorem SpendsTo.mono {t : State} (h : SpendsTo r u m es t) (hr : r ≤ r') (hu : u ≤ u') (hm : m ≤ m') :
    SpendsTo r' u' m' es t := by
  obtain ⟨fs, ht, hfs⟩ := h
  exact ⟨fs, ht, hfs.mono hr hu hm⟩

/-- Seen from before the last events. -/
theorem SpendsTo.before {t : State} (h : SpendsTo r' u' m' (es ++ fs) t) (k : AtMost r u m fs) :
    SpendsTo (r + r') (u + u') (m + m') es t := by
  obtain ⟨gs, ht, hgs⟩ := h
  exact ⟨fs ++ gs, by rw [ht, List.append_assoc], k.append hgs⟩

theorem Run.Spends.before {x : Run α} (h : x.Spends r' u' m' (es ++ fs)) (k : AtMost r u m fs) :
    x.Spends (r + r') (u + u') (m + m') es := by
  cases x with
  | ok v t => exact SpendsTo.before h k
  | failed t => exact SpendsTo.before (u' := u' + 1) h k

theorem Run.Spends.mono {x : Run α} (h : x.Spends r u m es) (hr : r ≤ r') (hu : u ≤ u') (hm : m ≤ m') :
    x.Spends r' u' m' es := by
  cases x with
  | ok v t => exact SpendsTo.mono h hr hu hm
  | failed t => exact SpendsTo.mono h hr (Nat.succ_le_succ hu) hm

/-- A run that returns at once spends nothing. -/
theorem spends_ok (v : α) {t : State} (ht : t.trace = es) : (Run.ok v t).Spends 0 0 0 es :=
  ⟨[], by rw [ht, List.append_nil], atMost_nil⟩

/-- Runs in a row spend what each of them spends; a failure spends its unit delay once (rule R112). -/
theorem Run.Spends.andThen {x : Run α} {k : α → State → Run β} (h : x.Spends r u m es)
    (hk : ∀ v t, (k v t).Spends r' u' m' t.trace) : (x.andThen k).Spends (r + r') (u + u') (m + m') es := by
  cases x with
  | ok v t =>
    obtain ⟨fs, ht, hfs⟩ := h
    exact (ht ▸ hk v t : (k v t).Spends r' u' m' (es ++ fs)).before hfs
  | failed t => exact SpendsTo.mono h (by omega) (by omega) (by omega)

/-- A run that may fail, and what follows it if it does not and spends nothing. -/
theorem Run.Spends.thenOut {x : Run α} {k : α → State → Out} {t : State} (h : x.Spends r u m es) (ht : x.thenOut k = .next t)
    (hk : ∀ v w, k v w = .next t → SpendsTo 0 0 0 w.trace t) : SpendsTo r (u + 1) m es t := by
  cases x with
  | ok v w =>
    obtain ⟨fs, hw, hfs⟩ := h
    exact (SpendsTo.before (hw ▸ hk v w ht) hfs).mono le_rfl u.le_succ le_rfl
  | failed w =>
    obtain rfl : w = t := Host.Outcome.next.inj ht
    exact h

end Spends

theorem failEntry_spendsTo (k : FailKind) {s : State} {r u m : Nat} {es : List Event} (h : SpendsTo r u m es s) :
    SpendsTo r u m es (s.failEntry k) := by
  obtain ⟨fs, hs, hfs⟩ := h
  exact ⟨fs ++ [.result k.code k.cause Payload.zero], by simp [hs], hfs.append (atMost_result _ _ _)⟩

/-! ### A wait, a sample and a bit -/

/-- A check reads the line once. -/
theorem check_spendsTo (cnt : BitVec 7) (s : State) : SpendsTo 1 0 0 s.trace (s.check cnt) :=
  ⟨[.read s.lineAnswer], rfl, atMost_read _⟩

theorem owedDelay_check_spendsTo {T : Level} {s : State} (cnt : BitVec 7) (ha : s.lineAnswer = .level T.other) :
    SpendsTo 1 1 0 s.trace (s.check cnt).owedDelay :=
  ⟨missEvents T, trace_after_miss cnt ha, atMost_missEvents T⟩

/-- A wait with `left + 1` checks left makes no delay after the check that finds its level (rules R78 and R81). -/
theorem pollLoop_spends (P : Config.Params) (T : Level) (left : Nat) (cnt : BitVec 7) (s : State) :
    (pollLoop P T (left + 1) cnt s).Spends (left + 1) left 0 s.trace := by
  induction left generalizing cnt s with
  | zero =>
    obtain ⟨c, ha⟩ | ha | ha := lineAnswer_cases T s
    · rw [pollLoop_of_err ha]
      exact failEntry_spendsTo _ ((check_spendsTo cnt s).mono le_rfl (Nat.zero_le 1) le_rfl)
    · rw [pollLoop_of_target ha]
      exact check_spendsTo cnt s
    · rw [pollLoop_of_last_miss ha]
      refine failEntry_spendsTo _ ?_
      split
      · exact owedDelay_check_spendsTo cnt ha
      · exact (check_spendsTo cnt s).mono le_rfl (Nat.zero_le 1) le_rfl
  | succ left ih =>
    obtain ⟨c, ha⟩ | ha | ha := lineAnswer_cases T s
    · rw [pollLoop_of_err ha]
      exact failEntry_spendsTo _ ((check_spendsTo cnt s).mono (by omega) (by omega) le_rfl)
    · rw [pollLoop_of_target ha]
      exact (check_spendsTo cnt s).mono (by omega) (by omega) le_rfl
    · have hrest := trace_after_miss cnt ha ▸ ih (cnt + 1) (s.check cnt).owedDelay
      rw [pollLoop_of_miss ha]
      exact (hrest.before (atMost_missEvents T)).mono (by omega) (by omega) le_rfl

theorem poll_spends (T : Level) (s : State) : (poll Config.hw T s).Spends 100 99 0 s.trace :=
  pollLoop_spends Config.hw T 99 0 s.waitReset

theorem sampleLevel_spends (s : State) : (sampleLevel s).Spends 1 0 0 s.trace := by
  have hread : SpendsTo 1 0 0 s.trace s.lineRead := ⟨[.read s.lineAnswer], rfl, atMost_read _⟩
  rw [sampleLevel]
  cases s.lineAnswer with
  | level l => exact hread
  | err c => exact failEntry_spendsTo _ (hread.mono le_rfl (Nat.zero_le 1) le_rfl)

theorem delayedSample_spends (s : State) : (sampleLevel (s.delay Config.sampleDelay)).Spends 1 0 1 s.trace := by
  have ht : (s.delay Config.sampleDelay).trace = s.trace ++ [.delay 35, .delayDone] := by rw [delay_eq]; rfl
  exact (ht ▸ sampleLevel_spends (s.delay Config.sampleDelay)).before atMost_sampleDelay

/-- A bit read: two waits and the delayed sample between them (rule R84). -/
theorem sampleBit_spends (s : State) : (sampleBit Config.hw s).Spends 201 198 1 s.trace :=
  (poll_spends .high s).andThen fun _ t => (delayedSample_spends t).andThen fun b u =>
    (poll_spends .low u).andThen fun _ _ => spends_ok b rfl

/-! ### The bytes and the whole read -/

theorem readBits_spends (left : Nat) (i : BitVec 3) (sh : Byte) (s : State) :
    (readBits Config.hw left i sh s).Spends (201 * left) (198 * left) left s.trace := by
  induction left generalizing i sh s with
  | zero => exact spends_ok _ rfl
  | succ left ih =>
    have hbits := (sampleBit_spends { s with bitIdx := some i }).andThen fun b t =>
      ih (i + 1) (foldBit sh b) { t with shift := some (foldBit sh b) }
    exact hbits.mono (by omega) (by omega) (by omega)

theorem readByte_spends (slot : BitVec 3) (s : State) : (readByte Config.hw slot s).Spends 1608 1584 8 s.trace :=
  (readBits_spends 8 0 0 { s with shift := some 0 }).andThen fun sh t =>
    spends_ok (t := { t with frame := t.frame.write slot sh }) sh rfl

theorem readBytes_spends (left : Nat) (j : BitVec 3) (s : State) :
    (readBytes Config.hw left j s).Spends (1608 * left) (1584 * left) (8 * left) s.trace := by
  induction left generalizing j s with
  | zero => exact spends_ok _ rfl
  | succ left ih =>
    have hbytes := (readByte_spends j { s with byteIdx := some j }).andThen fun _ t => ih (j + 1) t
    exact hbytes.mono (by omega) (by omega) (by omega)

/-- After its drive and its start delay a read makes two waits and reads five bytes (rule R91). -/
theorem readSteps_spends (s : State) :
    (readSteps Config.hw s).Spends 8240 8118 40 (s.trace ++ [.drive .high s.driveAnswer, .delay 48, .delayDone]) := by
  have ht : (s.lineDriveHigh.delay Config.startDelay).trace = s.trace ++ [.drive .high s.driveAnswer, .delay 48, .delayDone] := by
    simp [delay_eq, Config.startDelay]
  rw [← ht]
  exact (poll_spends .high _).andThen fun _ t => (poll_spends .low t).andThen fun _ u => readBytes_spends 5 0 u

/-- `VALIDATE` spends nothing (rule R92). -/
theorem validate_spendsTo {s t : State} (h : validate s = .next t) : SpendsTo 0 0 0 s.trace t := by
  cases validate_next h with
  | accepts | rejects => exact ⟨_, rfl, atMost_result _ _ _⟩

/-- A whole read ends, also where an abandoned delay was left outstanding: the completion of its start delay clears `SUSP`. -/
theorem readWhole_answers (s : State) : ∃ t, readWhole Config.hw s = .next t := by
  obtain ⟨-, t, -, -, h, -⟩ := endsWithin_of_accept (P := Config.hw) (s := { s with susp := false }) rfl rfl
  exact ⟨t, h⟩

/-- Settles O56: the read's steps spend at most what 82 waits and 40 samples do, and one unit delay more if the last wait fails. -/
theorem anyReadIsBounded : Obligations.AnyReadIsBounded := by
  intro s _
  obtain ⟨t, ht⟩ := readWhole_answers s
  have hsteps := ht
  rw [readWhole_eq_thenOut] at hsteps
  obtain ⟨es, htrace, hkinds, hreads, hunits, hsamples⟩ :=
    (readSteps_spends s.accept).thenOut hsteps fun _ _ => validate_spendsTo
  obtain ⟨cdrives, cports, cunits⟩ := accounted_of_afterStart hkinds
  refine ⟨t, s.accept.driveAnswer, es, ht, by simpa using htrace, cdrives, hreads, by omega, by omega, by omega, ?_⟩
  intro n hn
  have hkind := List.all_eq_true.mp hkinds _ hn
  simpa [Event.afterStart] using hkind

end Sys2Proof.Machine
end

section
/-! PROOF. The spec's decoding table: the words it lists as operations are the words of those operations, and each of its other words
falls in a class of reserved words. -/

namespace Sys2Proof

/-- The table's bits of an operation's word are that word (rule R71). -/
theorem tableWord_encode (i : Instr) : tableWord 16 (encode i).toNat = encode i := by
  rw [tableWord, Nat.mod_eq_of_lt (encode i).isLt, BitVec.ofNat_toNat, BitVec.setWidth_eq]

theorem decodeTableWord_encode {i : Instr} (hi : i.wf = true) : decodeTableWord 16 (encode i).toNat = some i := by
  rw [decodeTableWord, tableWord_encode, decode_encode hi]

theorem map_decodeTableWord_encode {is : List Instr} (h : ∀ i ∈ is, i.wf = true) :
    (is.map fun i => (encode i).toNat).map (decodeTableWord 16) = is.map some := by
  rw [List.map_map]
  exact List.map_congr_left fun i hi => decodeTableWord_encode (h i hi)

theorem decodeTableWord_isNone_of_error {nbits w : Nat} {r : Reserved} (h : decode (tableWord nbits w) = .error r) :
    (decodeTableWord nbits w).isNone = true := by
  rw [decodeTableWord, h]
  rfl

/-- Settles O4: the listed words are those of well-formed operations, and the others stand in the classes of reserved words. -/
theorem specWordsDecodeAsListed : Obligations.SpecWordsDecodeAsListed := by
  constructor
  · exact map_decodeTableWord_encode (is := [.driveHigh, .readLevel, .delay 1, .delay 35, .delay 48, .delay 4095, .pollLow, .pollHigh,
      .sampleBit, .readByte 0, .readByte 4, .validate, .readFrame, .abort]) (by decide)
  · rw [List.all_eq_true]
    simp only [List.forall_mem_cons]
    exact ⟨decodeTableWord_isNone_of_error (r := .delayZero) rfl,
      decodeTableWord_isNone_of_error (decode_of_poll_range (by decide) (by decide)),
      decodeTableWord_isNone_of_error (decode_of_arg_ne_zero (by decide) (by decide)),
      decodeTableWord_isNone_of_error (decode_of_slot_range (by decide) (by decide)),
      decodeTableWord_isNone_of_error (decode_of_arg_ne_zero (by decide) (by decide)),
      decodeTableWord_isNone_of_error (decode_of_reserved_op (by decide)),
      decodeTableWord_isNone_of_error (decode_of_reserved_op (by decide)),
      decodeTableWord_isNone_of_error (decode_of_reserved_op (by decide)), List.forall_mem_nil _⟩

end Sys2Proof
end
